-- ==== Sys2Proof/Word.lean ====
section
/-! DEFINITION. The word and byte types and the one piece of plain word arithmetic the CORE needs beyond `BitVec`. -/

namespace Sys2Proof

/-- A 32-bit word: the width of every host register and of the data bus (00_scope.md R7). -/
abbrev Word := BitVec 32

/-- A byte of a byte string or of DMEM (00_scope.md R11). -/
abbrev Byte := BitVec 8

/-- `rotl32(x, n) = ((x << n) | (x >> (32 − n))) mod 2^32` for 0 < n < 32 (00_scope.md R13). -/
def rotl32 (x : Word) (n : Nat) : Word := (x <<< n) ||| (x >>> (32 - n))

end Sys2Proof
end

