-- ==== Sys2Proof/Config.lean ====
section
/-! DEFINITION. The parameters the platform fixes (00_scope.md R8) and the free values the spec leaves open. -/

namespace Sys2Proof

/-- The parameters of 00_scope.md R8 that a rule of the CORE reads. `LAT` is not here: it is the schedule
`State.lats` (log 3); `BASE` is not here: no rule reads it (20_memory.md R66, log 16). A `Config` is part of the state
(`State.cfg`), where no step changes it, so that a statement about every state is a statement about every
parameter choice (log 1). -/
structure Config where
  /-- `DMEM_BYTES`: size of the data memory in bytes. -/
  dmemBytes : Nat
  /-- `ADDR_W`: width in bits of the host byte address. -/
  addrW : Nat
  /-- `ID_VALUE`: what the ID register reads. -/
  idValue : Word
  deriving DecidableEq, Repr

/-- The spec's own defaults (92_eei_decisions.md D1, D4). -/
def Config.default : Config := { dmemBytes := 4096, addrW := 16, idValue := 0x00008439#32 }

/-- A 16-word matrix of the keystream generator (40_keystream.md R122). -/
abbrev KsgMatrix := Vector Word 16

/-- FREE VALUE (log 7, safe). What the KSG working matrices X and W hold once a KS_BLOCK has completed: 10_state.md R46
says only that they last for the computation of one block. It has no body, so nothing can be proved of its values; the
step applies it to the counter `State.fresh`. -/
opaque Config.freeMatrix (n : Nat) : KsgMatrix

end Sys2Proof
end

