-- ==== Sys2Proof/Syntax.lean ====
section
/-! DEFINITION. The commands of the CORE, the transactions and other inputs of the HOST, and the HOST's program lines. -/

namespace Sys2Proof

/-- The nine commands of 30_encoding.md R93, one constructor per row of the opcode table. A command carries no operand
field (R92). -/
inductive Instr where
  /-- NOP (44_control.md R260). -/
  | nop
  /-- KS_BLOCK (40_keystream.md R129). -/
  | ksBlock
  /-- MAC_INIT (41_mac.md R165). -/
  | macInit
  /-- MAC_UPDATE (41_mac.md R166). -/
  | macUpdate
  /-- MAC_FINAL (41_mac.md R167). -/
  | macFinal
  /-- AEAD_ENC (42_aead.md R206). -/
  | aeadEnc
  /-- AEAD_DEC (42_aead.md R207). -/
  | aeadDec
  /-- CT_EQ (43_cteq.md R241). -/
  | ctEq
  /-- CLEAR (44_control.md R261). -/
  | clear
  deriving DecidableEq, Repr

/-- A host transaction as the bus carries it: an offset from the CORE's base address, a size in bits and, for a write, a
value. 20_memory.md R61 allows only aligned 32-bit ones; the others get a bus error. -/
inductive Transaction where
  | read (off : Word) (size : Nat)
  | write (off : Word) (size : Nat) (value : Word)
  deriving DecidableEq, Repr

/-- What can reach the CORE from outside between two steps of its own. -/
inductive HostInput where
  /-- One bus transaction. -/
  | bus (t : Transaction)
  /-- WAIT (30_encoding.md R98): read STATUS until bit 0 of the value read is 0. -/
  | wait
  /-- The platform's reset input (70_reset_and_hazards.md R320). -/
  | reset
  deriving DecidableEq, Repr

/-- One line of a host program: the forms of 30_encoding.md R97 and the pseudo-instructions of R98. -/
inductive Line where
  /-- `W off, v` -/
  | w (off v : Word)
  /-- `R off` -/
  | r (off : Word)
  /-- `R off -> name` -/
  | rBind (off : Word) (name : String)
  /-- `CMD m` -/
  | cmd (m : Instr)
  /-- `WAIT` -/
  | wait
  /-- `RUN m` -/
  | run (m : Instr)
  /-- `ACK` -/
  | ack
  /-- `ACKALL` -/
  | ackAll
  /-- `WB off, b0 b1 …` -/
  | wb (off : Word) (bs : List Byte)
  /-- `KEY b0 … b31` -/
  | key (bs : List Byte)
  /-- `NONCE b0 … b11` -/
  | nonce (bs : List Byte)
  /-- `TAG b0 … b15` -/
  | tag (bs : List Byte)
  /-- `TAGX b0 … b15` -/
  | tagx (bs : List Byte)
  /-- `MEM a, b0 …` -/
  | mem (a : Word) (bs : List Byte)
  /-- `RB off, n -> name` -/
  | rb (off : Word) (n : Nat) (name : String)
  deriving DecidableEq, Repr

end Sys2Proof
end

