-- ==== Sys2Proof/WellFormed.lean ====
section
/-! DEFINITION. The checks on raw terms: parameters, transactions, host program lines, commands. -/

namespace Sys2Proof

/-- The constraints of 00_scope.md R8: a multiple of 4, 64 ≤ DMEM_BYTES ≤ 2^32 − 4096, ADDR_W ≤ 32 and
2^ADDR_W ≥ 0x1000 + DMEM_BYTES. -/
abbrev Config.WF (c : Config) : Prop :=
  c.dmemBytes % 4 = 0 ∧ 64 ≤ c.dmemBytes ∧ c.dmemBytes ≤ 2 ^ 32 - 4096 ∧ c.addrW ≤ 32 ∧
    0x1000 + c.dmemBytes ≤ 2 ^ c.addrW

/-- A command has no operand field (30_encoding.md R92), so there is nothing to check: every `Instr` is well formed. The
reserved bits and the unassigned opcodes of a command WORD are the decoder's checks. -/
abbrev Instr.WF (_ : Instr) : Prop := True

/-- The offset of a transaction. -/
def Transaction.off : Transaction → Word
  | .read off _ => off
  | .write off _ _ => off

/-- The size of a transaction in bits. -/
def Transaction.size : Transaction → Nat
  | .read _ size => size
  | .write _ size _ => size

/-- 20_memory.md R61: one 32-bit word at an address that is a multiple of 4. -/
abbrev Transaction.Aligned32 (t : Transaction) : Prop := t.off.toNat % 4 = 0 ∧ t.size = 32

/-- A transaction the CORE answers without an error: R61 holds and its offset is one of the `ADDR_W`-bit host space
(R60). -/
abbrev Transaction.WF (c : Config) (t : Transaction) : Prop := t.Aligned32 ∧ t.off.toNat < 2 ^ c.addrW

/-- The operand counts and the alignment that 30_encoding.md R98 gives the pseudo-instructions. -/
abbrev Line.WF : Line → Prop
  | .w off _ => off.toNat % 4 = 0
  | .r off => off.toNat % 4 = 0
  | .rBind off _ => off.toNat % 4 = 0
  | .cmd _ => True
  | .wait => True
  | .run _ => True
  | .ack => True
  | .ackAll => True
  | .wb off _ => off.toNat % 4 = 0
  | .key bs => bs.length = 32
  | .nonce bs => bs.length = 12
  | .tag bs => bs.length = 16
  | .tagx bs => bs.length = 16
  | .mem a _ => a.toNat % 4 = 0
  | .rb off _ _ => off.toNat % 4 = 0

end Sys2Proof
end

