-- ==== Sys2Proof/Decode.lean ====
section
/-! DEFINITION. Command words: the decoder (total on every 32-bit word, rejecting by name), then the encoder. -/

namespace Sys2Proof

/-- Why a word written to CMD selects no command (30_encoding.md R94). The CORE still accepts such a word and completes it
with E_ILLEGAL; the name only says which part of the rule the word breaks. -/
inductive Reject where
  /-- RSV (bits 31:8) is not 0. -/
  | reservedBits
  /-- FAM is one of 5 .. 14. -/
  | unassignedFamily
  /-- FAM is a family, and OP none of its operations. -/
  | unassignedOp
  deriving DecidableEq, Repr

/-- RSV, bits 31:8 (30_encoding.md R90). -/
def rsvField (w : Word) : BitVec 24 := w.extractLsb' 8 24

/-- FAM, bits 7:4. -/
def famField (w : Word) : BitVec 4 := w.extractLsb' 4 4

/-- OP, bits 3:0. -/
def opField (w : Word) : BitVec 4 := w.extractLsb' 0 4

/-- The opcode map of 30_encoding.md R93, by family and operation. -/
def decodeOpcode (fam op : Nat) : Except Reject Instr :=
  match fam with
  | 0x0 => if op = 0 then .ok .nop else .error .unassignedOp
  | 0x1 => if op = 0 then .ok .ksBlock else .error .unassignedOp
  | 0x2 =>
    if op = 0 then .ok .macInit
    else if op = 1 then .ok .macUpdate
    else if op = 2 then .ok .macFinal
    else .error .unassignedOp
  | 0x3 =>
    if op = 0 then .ok .aeadEnc
    else if op = 1 then .ok .aeadDec
    else .error .unassignedOp
  | 0x4 => if op = 0 then .ok .ctEq else .error .unassignedOp
  | 0xF => if op = 0 then .ok .clear else .error .unassignedOp
  | _ => .error .unassignedFamily

/-- A word selects a command iff RSV = 0 and its bits 7:0 are an opcode (30_encoding.md R90, R94, R95). -/
def decode (w : Word) : Except Reject Instr :=
  if rsvField w = 0#24 then decodeOpcode (famField w).toNat (opField w).toNat
  else .error .reservedBits

/-- The family of a command (30_encoding.md R90, R93). -/
def Instr.fam : Instr → BitVec 4
  | .nop => 0x0#4
  | .ksBlock => 0x1#4
  | .macInit => 0x2#4
  | .macUpdate => 0x2#4
  | .macFinal => 0x2#4
  | .aeadEnc => 0x3#4
  | .aeadDec => 0x3#4
  | .ctEq => 0x4#4
  | .clear => 0xF#4

/-- The operation within the family (30_encoding.md R93). -/
def Instr.op : Instr → BitVec 4
  | .nop => 0x0#4
  | .ksBlock => 0x0#4
  | .macInit => 0x0#4
  | .macUpdate => 0x1#4
  | .macFinal => 0x2#4
  | .aeadEnc => 0x0#4
  | .aeadDec => 0x1#4
  | .ctEq => 0x0#4
  | .clear => 0x0#4

/-- The command word of a command: RSV ‖ FAM ‖ OP (30_encoding.md R90). The `opc` of R98. -/
def encode (i : Instr) : Word := 0#24 ++ i.fam ++ i.op

/-- What the decoder reads from a row of the opcode table: the command word is the low 32 bits of `w`, and every bit above
`nbits` is 0. A command is exactly one 32-bit word (30_encoding.md R91, R96), so a number with a higher bit set is no
command word. -/
def decodeTableWord (nbits w : Nat) : Option Instr :=
  if w % 2 ^ nbits < 2 ^ 32 then
    match decode (BitVec.ofNat 32 (w % 2 ^ nbits)) with
    | .ok i => some i
    | .error _ => none
  else none

end Sys2Proof
end

