-- ==== Sys2Proof/Machine/State.lean ====
section
/-! DEFINITION. The state of the CORE as plain data, its fault and refusal reasons, and the state after reset. -/

namespace Sys2Proof.Machine

/-- The prime of the MAC, `p = 2^130 − 5` (00_scope.md R13). -/
abbrev p : Nat := 2 ^ 130 - 5

/-- The lifecycle of the MAC accumulator (10_state.md R31). The value 3 of the two-bit field is never produced (R31,
93_implementation_defined.md U8), so it has no constructor (log 18). -/
inductive MacSt where
  /-- No session. -/
  | idle
  /-- A session is open. -/
  | active
  /-- MAC_FINAL has run. -/
  | finalized
  deriving DecidableEq, Repr

/-- The status codes a command can end with (60_exceptions.md R283). Codes 6 to 15 are never produced (U9, log 18). -/
inductive Code where
  | ok
  | eIllegal
  | eMacState
  | eRange
  | eOverlap
  | eAuth
  deriving DecidableEq, Repr

/-- DMEM (20_memory.md R67) as the list of its WRITTEN bytes: (offset, byte), offsets strictly rising. An offset that is not
listed has never been written since reset and holds no value (10_state.md R50). -/
abbrev Memory := List Host.Cell

/-- What an unlisted offset of DMEM reads as: no value (10_state.md R50, 70_reset_and_hazards.md R323; log 9). -/
def Memory.unlisted : Option Byte := none

/-- The canonical form of DMEM: offsets strictly rise. No entry can equal what an unlisted offset reads as, since that is
no byte at all; so equal memories are equal lists. -/
abbrev Memory.wf (m : Memory) : Prop := m.Pairwise (fun c d => c.1 < d.1)

/-- The MAC accumulator state (10_state.md R44). -/
structure MacState where
  /-- ACC, as the canonical integer of 10_state.md R45 (log 6). -/
  acc : Fin p
  /-- RL, the five limbs of the clamped multiplier. -/
  rl : Vector Word 5
  /-- SP, the four words of the pad. -/
  sp : Vector Word 4
  /-- BUF, the leftover bytes of a partial block. -/
  buf : Vector Byte 15
  /-- BUFLEN, how many bytes of BUF are valid. -/
  bufLen : Fin 16
  /-- MAC_ST. -/
  st : MacSt
  deriving DecidableEq, Repr

/-- The MAC state with ACC, RL, SP, BUF and BUFLEN zero (41_mac.md R160, 42_aead.md R208) and the given lifecycle state. -/
def MacState.zeroized (st : MacSt) : MacState :=
  { acc := ⟨0, by decide⟩, rl := .replicate 5 0#32, sp := .replicate 4 0#32, buf := .replicate 15 0#8,
    bufLen := 0, st := st }

/-- The state of the CORE (10_state.md R20), the parameters it was built with, and the model's own account of what comes
from outside. -/
@[ext]
structure State where
  /-- The parameters (00_scope.md R8); no step changes them (log 1). -/
  cfg : Config
  /-- CTRL.IE (10_state.md R26). -/
  ie : Bool
  /-- STATUS.BUSY (R28). -/
  busy : Bool
  /-- STATUS.DONE (R29). -/
  done : Bool
  /-- STATUS.EQ (R30). -/
  eq : Bool
  /-- STATUS.HAZ (R32). -/
  haz : Bool
  /-- STATUS.ERR (R33). -/
  err : Code
  /-- A_PTR (R35). -/
  aPtr : Word
  /-- A_LEN (R35). -/
  aLen : Word
  /-- T_PTR (R36). -/
  tPtr : Word
  /-- T_LEN (R36). -/
  tLen : Word
  /-- KEY0..7 (R37). -/
  key : Vector Word 8
  /-- NONCE0..2 (R38). -/
  nonce : Vector Word 3
  /-- COUNTER (R39). -/
  counter : Word
  /-- TAG0..3 (R40). -/
  tag : Vector Word 4
  /-- TAGX0..3 (R41). -/
  tagx : Vector Word 4
  /-- KS0..15 (R42). -/
  ks : Vector Word 16
  /-- DMEM (20_memory.md R67). -/
  dmem : Memory
  /-- ACC, RL, SP, BUF, BUFLEN and MAC_ST (R44). -/
  mac : MacState
  /-- X, the initial matrix of KSG (R46). -/
  ksgX : KsgMatrix
  /-- W, the working matrix of KSG (R46). -/
  ksgW : KsgMatrix
  /-- PEND, the command word latched at issue (R47). -/
  pend : Word
  /-- OTK, the one-time key of an AEAD command (R47). -/
  otk : Vector Byte 32
  /-- ETAG, the expected tag of AEAD_DEC (R47). -/
  etag : Vector Byte 16
  /-- MODEL'S OWN: how many free values have been drawn (log 7). -/
  fresh : Nat
  /-- MODEL'S OWN: how many inputs are still performed before the command in progress completes (log 3). -/
  delay : Nat
  /-- MODEL'S OWN: the delays of the commands still to be issued (log 3). -/
  lats : List Nat
  /-- MODEL'S OWN: the inputs from outside not yet performed, the next one first (log 2). -/
  inbox : List HostInput
  /-- MODEL'S OWN: what the HOST has read, (offset, value), newest first (log 2). -/
  readLog : List (Word × Word)
  deriving DecidableEq, Repr

/-- Why the machine stops. Each is a stop the spec asks of a model, but for `addressOutsideSpace`. -/
inductive Fault where
  /-- SAFE. Raised by the host port: a transaction that is misaligned or not 32 bits wide gets a bus error and changes no
  state; "A model of the CORE faults such a transaction" (60_exceptions.md R286; log 10). -/
  | busError
  /-- SAFE. Raised by the host port: an offset of 2^ADDR_W or above is not in the host space (20_memory.md R60; log 10). -/
  | addressOutsideSpace
  /-- SAFE. Raised by the host port: a host read of a DMEM word with a byte that has no value (10_state.md R50, 20_memory.md
  R67; log 9). -/
  | unwrittenHostRead
  /-- SAFE. Raised by MAC_UPDATE, AEAD_ENC and AEAD_DEC: a `MemRead` of a byte that has no value (10_state.md R50,
  20_memory.md R70; log 9). -/
  | unwrittenCommandRead
  deriving DecidableEq, Repr

/-- Why the model has no meaning for an instruction. Nothing in this model answers with it: every command has its meaning. -/
inductive Refusal where
  /-- SAFE. Would be raised by an arm of `exec` whose command is not modelled yet. -/
  | notModelled (mnemonic : String)
  deriving DecidableEq, Repr

/-- The CORE right after reset with the given parameters (70_reset_and_hazards.md R321 to R324). The model's own fields are
at log 2, log 3 and log 7's values. -/
def State.resetWith (cfg : Config) : State :=
  { cfg := cfg
    ie := false, busy := false, done := false, eq := false, haz := false, err := .ok
    aPtr := 0#32, aLen := 0#32, tPtr := 0#32, tLen := 0#32
    key := .replicate 8 0#32, nonce := .replicate 3 0#32, counter := 0#32
    tag := .replicate 4 0#32, tagx := .replicate 4 0#32, ks := .replicate 16 0#32
    dmem := []
    mac := .zeroized .idle
    ksgX := .replicate 16 0#32, ksgW := .replicate 16 0#32
    pend := 0#32, otk := .replicate 32 0#8, etag := .replicate 16 0#8
    fresh := 0, delay := 0, lats := [], inbox := [], readLog := [] }

/-- The CORE right after reset, with the spec's default parameters (92_eei_decisions.md D1, D4; log 1). -/
def State.reset : State := .resetWith .default

end Sys2Proof.Machine
end

