-- ==== Sys2Proof/Machine/Bytes.lean ====
section
/-! DEFINITION. Byte strings and their little-endian numbers and words (00_scope.md R11, R12; 20_memory.md R62, R63). A byte
string is a list of bytes, byte 0 first. -/

namespace Sys2Proof.Machine

/-- `LE(B) = Σ B[i]·2^(8i)` (00_scope.md R12). -/
def leNat : List Byte → Nat
  | [] => 0
  | b :: bs => b.toNat + 256 * leNat bs

/-- `LEbytes_n(v)`: the n-byte string whose little-endian number is `v mod 2^(8n)` (00_scope.md R12). -/
def leBytes : Nat → Nat → List Byte
  | 0, _ => []
  | n + 1, v => BitVec.ofNat 8 v :: leBytes n (v / 256)

/-- `LE32(B, o) = LE(B[o..o+4))` (00_scope.md R12). -/
def le32 (B : List Byte) (o : Nat) : Word := BitVec.ofNat 32 (leNat ((B.drop o).take 4))

/-- `LEbytes_4` of a register: its four bytes, bits 7:0 first (20_memory.md R62). -/
def wordBytes (w : Word) : List Byte := leBytes 4 w.toNat

/-- The byte string that consecutive registers hold: byte `4i + j` is bits `8j+7:8j` of word i (20_memory.md R62). -/
def wordsBytes (ws : List Word) : List Byte := ws.flatMap wordBytes

/-- The registers that hold a byte string: word i is `LE32(B, 4i)` (20_memory.md R62). -/
def bytesWords (n : Nat) (B : List Byte) : Vector Word n := .ofFn fun i => le32 B (4 * i.val)

/-- A byte string in a store of n bytes: its first n bytes, 0x00 past its end. -/
def bytesStore (n : Nat) (B : List Byte) : Vector Byte n := .ofFn fun i => B.getD i.val 0#8

/-- `zeros(n)` (00_scope.md R11). -/
def zeros (n : Nat) : List Byte := List.replicate n 0#8

/-- Byte-wise exclusive-or; as long as the shorter of the two strings. -/
def xorBytes (a b : List Byte) : List Byte := List.zipWith (· ^^^ ·) a b

end Sys2Proof.Machine
end

