-- ==== Sys2Proof/Machine/Flags.lean ====
section
/-! DEFINITION. STATUS, CTRL and the IRQ output: the encodings of their fields, the words a read returns, and what a write of
STATUS or CTRL does. -/

namespace Sys2Proof.Machine

/-- STATUS.MAC_ST (10_state.md R31). -/
def MacSt.bits : MacSt → BitVec 2
  | .idle => 0#2
  | .active => 1#2
  | .finalized => 2#2

/-- STATUS.ERR (60_exceptions.md R283). -/
def Code.bits : Code → BitVec 4
  | .ok => 0#4
  | .eIllegal => 1#4
  | .eMacState => 2#4
  | .eRange => 3#4
  | .eOverlap => 4#4
  | .eAuth => 5#4

/-- The word a read of STATUS returns (10_state.md R27): 31:12 reserved, ERR 11:8, reserved 7, HAZ 6, MAC_ST 5:4, reserved 3,
EQ 2, DONE 1, BUSY 0. -/
def State.statusWord (s : State) : Word :=
  0#20 ++ s.err.bits ++ 0#1 ++ BitVec.ofBool s.haz ++ s.mac.st.bits ++ 0#1 ++ BitVec.ofBool s.eq ++
    BitVec.ofBool s.done ++ BitVec.ofBool s.busy

/-- The word a read of CTRL returns (10_state.md R26): IE in bit 0, the rest reads as zero. -/
def State.ctrlWord (s : State) : Word := 0#31 ++ BitVec.ofBool s.ie

/-- The IRQ output: `CTRL.IE & STATUS.DONE` at all times (10_state.md R49, 60_exceptions.md R291). -/
def State.irq (s : State) : Bool := s.ie && s.done

/-- A host write of CTRL: bit 0 is IE, the other bits are ignored (10_state.md R26). -/
def State.writeCtrl (v : Word) (s : State) : State := { s with ie := v.getLsbD 0 }

/-- A host write of STATUS: bit 1 set clears DONE, bit 6 set clears HAZ, every other bit is ignored (10_state.md R27). -/
def State.writeStatus (v : Word) (s : State) : State :=
  { s with done := s.done && !v.getLsbD 1, haz := s.haz && !v.getLsbD 6 }

/-- The hazard flag, set by a host access to a locked location (10_state.md R32, 70_reset_and_hazards.md R326). -/
def State.setHaz (s : State) : State := { s with haz := true }

/-- STATUS.EQ, as CT_EQ and AEAD_DEC write it (10_state.md R30). -/
def State.setEq (b : Bool) (s : State) : State := { s with eq := b }

end Sys2Proof.Machine
end

