-- ==== Sys2Proof/Machine/Ops.lean ====
section
/-! DEFINITION. The shared operations: bytes of DMEM, the issue and the completion of a command, reset. The CORE takes no
traps (60_exceptions.md R289); what stands in their place is a completion with a status code, ONE operation here
(`State.complete`), of which `raise CmdError` is the form without any other effect. -/

namespace Sys2Proof.Machine

/-- The byte of DMEM at an offset, if it has a value (10_state.md R50). -/
def Memory.byte? : Memory → Nat → Option Byte
  | [], _ => Memory.unlisted
  | (k, b) :: m, a => if k = a then some b else Memory.byte? m a

/-- Writes one byte of DMEM and marks it written, keeping the canonical form (20_memory.md R67, R71). -/
def Memory.set : Memory → Nat → Byte → Memory
  | [], a, b => [(a, b)]
  | (k, c) :: m, a, b =>
    if a < k then (a, b) :: (k, c) :: m
    else if a = k then (a, b) :: m
    else (k, c) :: Memory.set m a b

/-- `MemRead(a, n)`: the n bytes from offset a on, none if one of them has no value (20_memory.md R70). -/
def Memory.read (m : Memory) : Nat → Nat → Option (List Byte)
  | _, 0 => some []
  | a, n + 1 =>
    match m.byte? a, Memory.read m (a + 1) n with
    | some b, some bs => some (b :: bs)
    | _, _ => none

/-- `MemWrite(a, len(B), B)`: sets and marks written exactly the bytes a .. a + len(B) − 1 (20_memory.md R71). -/
def Memory.write : Memory → Nat → List Byte → Memory
  | m, _, [] => m
  | m, a, b :: bs => Memory.write (m.set a b) (a + 1) bs

/-- `MemRead` on the state. -/
def State.memRead (a n : Nat) (s : State) : Option (List Byte) := s.dmem.read a n

/-- `MemWrite` on the state. -/
def State.memWrite (a : Nat) (B : List Byte) (s : State) : State := { s with dmem := s.dmem.write a B }

/-- Issue (60_exceptions.md R280): latch the word, BUSY ← 1, DONE ← 0. The delay of this command is the next of the
schedule, 0 where the schedule gives none (log 3). -/
def State.issue (v : Word) (s : State) : State :=
  { s with pend := v, busy := true, done := false, delay := s.lats.headD 0, lats := s.lats.tail }

/-- `complete(code)` (60_exceptions.md R282): ERR ← code, BUSY ← 0, DONE ← 1, PEND ← 0. -/
def State.complete (code : Code) (s : State) : State :=
  { s with err := code, busy := false, done := true, pend := 0#32, delay := 0 }

/-- `raise CmdError(code)` (60_exceptions.md R284): the command ends with the code and does nothing else. -/
def State.raiseCmdError (code : Code) (s : State) : State := s.complete code

/-- `AeadZeroize()` (42_aead.md R208): OTK, ETAG, the MAC state, X and W become zero and MAC_ST becomes IDLE. -/
def State.aeadZeroize (s : State) : State :=
  { s with otk := .replicate 32 0#8, etag := .replicate 16 0#8, mac := .zeroized .idle,
           ksgX := .replicate 16 0#32, ksgW := .replicate 16 0#32 }

/-- X and W after a KS_BLOCK: two free values (10_state.md R46; log 7). -/
def State.forgetKsg (s : State) : State :=
  { s with ksgX := Config.freeMatrix s.fresh, ksgW := Config.freeMatrix (s.fresh + 1), fresh := s.fresh + 2 }

/-- The reset event (70_reset_and_hazards.md R320 to R324, R333): every register, the hidden state and the command in
progress go to their reset values and DMEM becomes unwritten. What the outside world holds stays: the inputs still to
come, the schedule, what the HOST has read, and the count of free values (log 13). -/
def State.resetNow (s : State) : State :=
  { State.resetWith s.cfg with inbox := s.inbox, lats := s.lats, readLog := s.readLog, fresh := s.fresh }

/-- The HOST has read the word v at an offset (log 2). -/
def State.noteRead (off v : Word) (s : State) : State := { s with readLog := (off, v) :: s.readLog }

end Sys2Proof.Machine
end

