-- ==== Sys2Proof/Machine/Operands.lean ====
section
/-! DEFINITION. The operands of the commands (30_encoding.md R92): the byte strings the registers hold, and the DMEM regions
with their checks. -/

namespace Sys2Proof.Machine

/-- K, the 32 bytes of KEY0..7 (10_state.md R37). -/
def State.keyBytes (s : State) : List Byte := wordsBytes s.key.toList

/-- N, the 12 bytes of NONCE0..2 (10_state.md R38). -/
def State.nonceBytes (s : State) : List Byte := wordsBytes s.nonce.toList

/-- The 16 bytes of TAG0..3 (10_state.md R40). -/
def State.tagBytes (s : State) : List Byte := wordsBytes s.tag.toList

/-- The 16 bytes of TAGX0..3 (10_state.md R41). -/
def State.tagxBytes (s : State) : List Byte := wordsBytes s.tagx.toList

/-- The 64 bytes of KS0..15 (10_state.md R42). -/
def State.ksBytes (s : State) : List Byte := wordsBytes s.ks.toList

/-- TAGi ← LE32(T, 4i) (41_mac.md R167, 42_aead.md R206). -/
def State.setTag (T : List Byte) (s : State) : State := { s with tag := bytesWords 4 T }

/-- KSi ← LE32(B, 4i) (40_keystream.md R129). -/
def State.setKs (B : List Byte) (s : State) : State := { s with ks := bytesWords 16 B }

/-- A region (P, L) is valid iff `P + L ≤ DMEM_BYTES` on unbounded integers (20_memory.md R69). -/
def State.regionValid (s : State) (P L : Word) : Bool := decide (P.toNat + L.toNat ≤ s.cfg.dmemBytes)

/-- The A and T regions share a byte: both are non-empty and each begins before the other ends (42_aead.md R201). -/
def State.regionsOverlap (s : State) : Bool :=
  decide (0 < s.aLen.toNat ∧ 0 < s.tLen.toNat ∧ s.aPtr.toNat < s.tPtr.toNat + s.tLen.toNat ∧
    s.tPtr.toNat < s.aPtr.toNat + s.aLen.toNat)

/-- `MemRead(REG[A_PTR], REG[A_LEN])`, the AAD (10_state.md R35). -/
def State.readA (s : State) : Option (List Byte) := s.memRead s.aPtr.toNat s.aLen.toNat

/-- `MemRead(REG[T_PTR], REG[T_LEN])`, the text (10_state.md R36). -/
def State.readT (s : State) : Option (List Byte) := s.memRead s.tPtr.toNat s.tLen.toNat

/-- The DMEM offset the text is written back to: `MemWrite(REG[T_PTR], REG[T_LEN], …)` starts there (42_aead.md R206, R207). -/
def State.textAddr (s : State) : Nat := s.tPtr.toNat

/-- The checks of MAC_UPDATE, in order: E_MAC_STATE, then E_RANGE (60_exceptions.md R285, 41_mac.md R166). -/
def State.macUpdateCheck (s : State) : Option Code :=
  if s.mac.st ≠ .active then some .eMacState
  else if s.regionValid s.tPtr s.tLen = false then some .eRange
  else none

/-- The check of MAC_FINAL (41_mac.md R167). -/
def State.macFinalCheck (s : State) : Option Code := if s.mac.st ≠ .active then some .eMacState else none

/-- `AeadCheck()`: E_RANGE for the A region, E_RANGE for the T region, then E_OVERLAP (42_aead.md R201). -/
def State.aeadCheck (s : State) : Option Code :=
  if s.regionValid s.aPtr s.aLen = false then some .eRange
  else if s.regionValid s.tPtr s.tLen = false then some .eRange
  else if s.regionsOverlap = true then some .eOverlap
  else none

end Sys2Proof.Machine
end

