-- ==== Sys2Proof/Machine/Cteq.lean ====
section
/-! DEFINITION. The constant-time equality checker CTEQ (43_cteq.md) and CT_EQ. -/

namespace Sys2Proof.Machine

/-- The accumulator of `CtEq(a, b)`: the running or of the byte differences, over all bytes (43_cteq.md R240). -/
def ctEqAcc (a b : List Byte) : Byte := (xorBytes a b).foldl (· ||| ·) 0#8

/-- `CtEq(a, b)`: the accumulator is tested against zero once, at the end (43_cteq.md R240). -/
def ctEq (a b : List Byte) : Bool := ctEqAcc a b == 0#8

/-- CT_EQ (43_cteq.md R241): STATUS.EQ ← CtEq(TAG, TAGX). -/
def execCtEq (s : State) : Host.Outcome State Fault Refusal :=
  .next ((s.setEq (ctEq s.tagBytes s.tagxBytes)).complete .ok)

end Sys2Proof.Machine
end

