-- ==== Sys2Proof/Machine/Keystream.lean ====
section
/-! DEFINITION. The keystream generator KSG (40_keystream.md) and KS_BLOCK. -/

namespace Sys2Proof.Machine

/-- σ0, σ1, σ2, σ3 (40_keystream.md R121; log 14). -/
def sigma : Vector Word 4 := #v[0x61707865#32, 0x3320646E#32, 0x79622D32#32, 0x6B206574#32]

/-- The initial matrix X: constants, key, counter, nonce (40_keystream.md R122). -/
def initialMatrix (K : List Byte) (ctr : Word) (N : List Byte) : KsgMatrix :=
  #v[sigma[0], sigma[1], sigma[2], sigma[3],
     le32 K 0, le32 K 4, le32 K 8, le32 K 12,
     le32 K 16, le32 K 20, le32 K 24, le32 K 28,
     ctr, le32 N 0, le32 N 4, le32 N 8]

/-- The twelve operations of a quarter-round on four words, in the order of 40_keystream.md R124. -/
def quarterRound (a b c d : Word) : Word × Word × Word × Word :=
  let a := a + b
  let d := rotl32 (d ^^^ a) 16
  let c := c + d
  let b := rotl32 (b ^^^ c) 12
  let a := a + b
  let d := rotl32 (d ^^^ a) 8
  let c := c + d
  let b := rotl32 (b ^^^ c) 7
  (a, b, c, d)

/-- `QR(W, a, b, c, d)`: the quarter-round on four words of the matrix, in place (40_keystream.md R124). -/
def qr (W : KsgMatrix) (a b c d : Fin 16) : KsgMatrix :=
  let q := quarterRound W[a] W[b] W[c] W[d]
  (((W.set a q.1).set b q.2.1).set c q.2.2.1).set d q.2.2.2

/-- The column tuples (40_keystream.md R123). -/
def columnRound (W : KsgMatrix) : KsgMatrix :=
  qr (qr (qr (qr W 0 4 8 12) 1 5 9 13) 2 6 10 14) 3 7 11 15

/-- The diagonal tuples (40_keystream.md R123). -/
def diagonalRound (W : KsgMatrix) : KsgMatrix :=
  qr (qr (qr (qr W 0 5 10 15) 1 6 11 12) 2 7 8 13) 3 4 9 14

/-- A double round: the four columns, then the four diagonals (40_keystream.md R125). -/
def doubleRound (W : KsgMatrix) : KsgMatrix := diagonalRound (columnRound W)

/-- n double rounds, one after the other. -/
def doubleRounds : Nat → KsgMatrix → KsgMatrix
  | 0, W => W
  | n + 1, W => doubleRounds n (doubleRound W)

/-- The output matrix Y: ten double rounds and the feed-forward of the initial matrix (40_keystream.md R126). -/
def outputMatrix (X : KsgMatrix) : KsgMatrix :=
  let W := doubleRounds 10 X
  .ofFn fun i => W[i] + X[i]

/-- `ChaChaBlock(K, ctr, N)`, 64 bytes (40_keystream.md R120, R126). -/
def chachaBlock (K : List Byte) (ctr : Word) (N : List Byte) : List Byte :=
  wordsBytes (outputMatrix (initialMatrix K ctr N)).toList

/-- KS_BLOCK (40_keystream.md R129): KS0..15 get the block of KEY, COUNTER and NONCE. COUNTER does not change (10_state.md
R39). X and W become free values (log 7). -/
def execKsBlock (s : State) : Host.Outcome State Fault Refusal :=
  .next (((s.setKs (chachaBlock s.keyBytes s.counter s.nonceBytes)).forgetKsg).complete .ok)

end Sys2Proof.Machine
end

