-- ==== Sys2Proof/Machine/Mac.lean ====
section
/-! DEFINITION. The one-time MAC accumulator at the value level (41_mac.md R150 to R160, the layer that decides every tag),
and MAC_INIT, MAC_UPDATE and MAC_FINAL. -/

namespace Sys2Proof.Machine

/-- Reduction mod p (00_scope.md R13, 41_mac.md R159): the canonical value in [0, p). -/
def modP (n : Nat) : Fin p := ⟨n % p, Nat.mod_lt n (by decide)⟩

/-- The five limb masks of clamping (41_mac.md R153). -/
def clampMask : Vector Word 5 := #v[0x3FFFFFF#32, 0x3FFFF03#32, 0x3FFC0FF#32, 0x3F03FFF#32, 0x00FFFFF#32]

/-- RL from r, the first half of the one-time key: limb k is `(R128 >> 26k) & mask_k` (41_mac.md R153). -/
def clampLimbs (r : List Byte) : Vector Word 5 :=
  .ofFn fun k => BitVec.ofNat 32 ((leNat r >>> (26 * k.val)) &&& clampMask[k].toNat)

/-- SP from s, the second half: `s_i = LE32(s, 4i)` (41_mac.md R152). -/
def padWords (sBytes : List Byte) : Vector Word 4 := bytesWords 4 sBytes

/-- `rv = Σ r_k · 2^(26k)` (41_mac.md R153). -/
def MacState.rv (m : MacState) : Nat :=
  m.rl[0].toNat + m.rl[1].toNat * 2 ^ 26 + m.rl[2].toNat * 2 ^ 52 + m.rl[3].toNat * 2 ^ 78 + m.rl[4].toNat * 2 ^ 104

/-- `sv = Σ s_i · 2^(32i)` (41_mac.md R152). -/
def MacState.sv (m : MacState) : Nat :=
  m.sp[0].toNat + m.sp[1].toNat * 2 ^ 32 + m.sp[2].toNat * 2 ^ 64 + m.sp[3].toNat * 2 ^ 96

/-- The valid bytes of BUF, `BUF[0..BUFLEN)`. -/
def MacState.pending (m : MacState) : List Byte := m.buf.toList.take m.bufLen.val

/-- `MacInit(OTK)` (41_mac.md R152 to R154; the starting value 0 of ACC is log 14's). -/
def macInit (OTK : List Byte) : MacState :=
  { acc := modP 0, rl := clampLimbs (OTK.take 16), sp := padWords ((OTK.drop 16).take 16),
    buf := .replicate 15 0#8, bufLen := 0, st := .active }

/-- Which of the two block values a block has. -/
inductive BlockKind where
  /-- Sixteen bytes (41_mac.md R155). -/
  | full
  /-- 1 to 15 bytes, the last of a message (41_mac.md R156). -/
  | partialBlock
  deriving DecidableEq, Repr

/-- The value c of a block: `LE(m) + 2^128` if full, `LE(m ‖ 0x01 ‖ zeros(15 − len(m)))` if partial (41_mac.md R155, R156). -/
def blockValue (m : List Byte) : BlockKind → Nat
  | .full => leNat m + 2 ^ 128
  | .partialBlock => leNat (m ++ 1#8 :: zeros (15 - m.length))

/-- `Block(m, kind)`: `acc ← ((acc + c) · rv) mod p` (41_mac.md R158). -/
def macBlock (rv : Nat) (acc : Fin p) (m : List Byte) (kind : BlockKind) : Fin p :=
  modP ((acc.val + blockValue m kind) * rv)

/-- The first n full blocks of S, one after the other (41_mac.md R157). -/
def absorbBlocks (rv : Nat) : Nat → Fin p → List Byte → Fin p
  | 0, acc, _ => acc
  | n + 1, acc, S => absorbBlocks rv n (macBlock rv acc (S.take 16) .full) (S.drop 16)

/-- `MacAbsorb(D)` (41_mac.md R157): every complete 16-byte chunk of BUF ‖ D is absorbed, the rest is buffered and the bytes
of BUF past it are zero. -/
def macAbsorb (m : MacState) (D : List Byte) : MacState :=
  let S := m.pending ++ D
  let n := S.length / 16
  { m with
    acc := absorbBlocks m.rv n m.acc S
    buf := bytesStore 15 (S.drop (16 * n))
    bufLen := ⟨S.length - 16 * n, by omega⟩ }

/-- The accumulator after the final partial block, if there is one (41_mac.md R160). -/
def MacState.finalAcc (m : MacState) : Fin p :=
  if 0 < m.bufLen.val then macBlock m.rv m.acc m.pending .partialBlock else m.acc

/-- The tag of `MacFinal()`: `LEbytes_16((h + sv) mod 2^128)` (41_mac.md R159, R160). -/
def MacState.finalTag (m : MacState) : List Byte := leBytes 16 ((m.finalAcc.val + m.sv) % 2 ^ 128)

/-- MAC_INIT (41_mac.md R165): a new session keyed by KEY0..7, whatever MAC_ST was. The OTK of its pseudocode is the operand;
the OTK register of 10_state.md R47 belongs to the AEAD commands (log 8). -/
def execMacInit (s : State) : Host.Outcome State Fault Refusal :=
  .next ({ s with mac := macInit s.keyBytes }.complete .ok)

/-- MAC_UPDATE (41_mac.md R166): absorb the T region into the open session. -/
def execMacUpdate (s : State) : Host.Outcome State Fault Refusal :=
  match s.macUpdateCheck with
  | some code => .next (s.raiseCmdError code)
  | none =>
    match s.readT with
    | none => .fault .unwrittenCommandRead
    | some D => .next ({ s with mac := macAbsorb s.mac D }.complete .ok)

/-- MAC_FINAL (41_mac.md R167): the tag goes to TAG, the MAC state is zeroized, MAC_ST ← FINALIZED. -/
def execMacFinal (s : State) : Host.Outcome State Fault Refusal :=
  match s.macFinalCheck with
  | some code => .next (s.raiseCmdError code)
  | none => .next (({ s.setTag s.mac.finalTag with mac := .zeroized .finalized }).complete .ok)

end Sys2Proof.Machine
end

