-- ==== Sys2Proof/Machine/Aead.lean ====
section
/-! DEFINITION. The AEAD orchestrator SEQ: AEAD_ENC and AEAD_DEC (42_aead.md). -/

namespace Sys2Proof.Machine

/-- `pad16(n) = (16 − (n mod 16)) mod 16` (42_aead.md R200). -/
def pad16 (n : Nat) : Nat := (16 - n % 16) % 16

/-- n chunks of 64 bytes of D, the j-th from the start xored with the keystream of counter `1 + j` (42_aead.md R204). -/
def keyStreamChunks (K N : List Byte) : Nat → Nat → List Byte → List Byte
  | 0, _, _ => []
  | n + 1, j, D =>
    xorBytes (D.take 64) (chachaBlock K (BitVec.ofNat 32 (1 + j)) N) ++ keyStreamChunks K N n (j + 1) (D.drop 64)

/-- `KeyStreamXor(K, N, D)`: `ceil(len(D)/64)` chunks, counters 1, 2, 3, … (42_aead.md R204). -/
def keyStreamXor (K N D : List Byte) : List Byte := keyStreamChunks K N ((D.length + 63) / 64) 0 D

/-- The 16-byte length trailer (42_aead.md R205). -/
def lengthTrailer (A C : List Byte) : List Byte := leBytes 8 A.length ++ leBytes 8 C.length

/-- The MAC state once the whole transcript is absorbed, piece by piece (42_aead.md R205). -/
def absorbTranscript (m : MacState) (A C : List Byte) : MacState :=
  let m := macAbsorb m A
  let m := macAbsorb m (zeros (pad16 A.length))
  let m := macAbsorb m C
  let m := macAbsorb m (zeros (pad16 C.length))
  macAbsorb m (lengthTrailer A C)

/-- The one-time key of a key and a nonce: `ChaChaBlock(K, 0, N)[0..32)` (42_aead.md R203). -/
def oneTimeKey (K N : List Byte) : List Byte := (chachaBlock K 0#32 N).take 32

/-- `AeadTag(K, N, A, C)` (42_aead.md R205). -/
def aeadTag (K N A C : List Byte) : List Byte := (absorbTranscript (macInit (oneTimeKey K N)) A C).finalTag

/-- `OTK ← ChaChaBlock(K, 0, N)[0..32)` (42_aead.md R203). -/
def State.deriveOtk (s : State) : State :=
  { s with otk := bytesStore 32 (oneTimeKey s.keyBytes s.nonceBytes) }

/-- `AeadTag(K, N, A, C)` up to its last call (42_aead.md R205): the one-time key is derived, the MAC is keyed with it and has
absorbed the transcript. -/
def State.authenticate (A C : List Byte) (s : State) : State :=
  { s.deriveOtk with mac := absorbTranscript (macInit s.deriveOtk.otk.toList) A C }

/-- AEAD_ENC past its checks and reads (42_aead.md R206): the text is encrypted in place, the tag over the CIPHERTEXT goes to
TAG, and everything derived is zeroized. -/
def State.sealText (A P : List Byte) (s : State) : State :=
  let C := keyStreamXor s.keyBytes s.nonceBytes P
  let s1 := (s.memWrite s.textAddr C).authenticate A C
  ((s1.setTag s1.mac.finalTag).aeadZeroize).complete .ok

/-- AEAD_ENC (42_aead.md R206). -/
def execAeadEnc (s : State) : Host.Outcome State Fault Refusal :=
  match s.aeadCheck with
  | some code => .next (s.raiseCmdError code)
  | none =>
    match s.readA, s.readT with
    | some A, some P => .next (s.sealText A P)
    | _, _ => .fault .unwrittenCommandRead

/-- ETAG ← the expected tag (42_aead.md R207). -/
def State.setEtag (T : List Byte) (s : State) : State := { s with etag := bytesStore 16 T }

/-- AEAD_DEC past its checks and reads (42_aead.md R207): the expected tag goes to ETAG and is compared with TAG; EQ gets the
result; only on equality is the keystream applied and the text written back; everything derived is zeroized either way. -/
def State.openText (A C : List Byte) (s : State) : State :=
  let s1 := s.authenticate A C
  let s2 := s1.setEtag s1.mac.finalTag
  let ok := ctEq s2.etag.toList s2.tagBytes
  let s3 := s2.setEq ok
  if ok then
    ((s3.memWrite s3.textAddr (keyStreamXor s3.keyBytes s3.nonceBytes C)).aeadZeroize).complete .ok
  else
    (s3.aeadZeroize).complete .eAuth

/-- AEAD_DEC (42_aead.md R207). -/
def execAeadDec (s : State) : Host.Outcome State Fault Refusal :=
  match s.aeadCheck with
  | some code => .next (s.raiseCmdError code)
  | none =>
    match s.readA, s.readT with
    | some A, some C => .next (s.openText A C)
    | _, _ => .fault .unwrittenCommandRead

end Sys2Proof.Machine
end

