-- ==== Sys2Proof/Machine/Control.lean ====
section
/-! DEFINITION. NOP and CLEAR (44_control.md), and the completion of an illegal command word. -/

namespace Sys2Proof.Machine

/-- NOP (44_control.md R260): only completes. -/
def execNop (s : State) : Host.Outcome State Fault Refusal := .next (s.complete .ok)

/-- The writes of CLEAR (44_control.md R261): every operand and output register, the MAC state, OTK, ETAG, X and W become
zero and EQ becomes 0. CTRL, HAZ, ID and DMEM stay. -/
def State.clearRegisters (s : State) : State :=
  { s with
    aPtr := 0#32, aLen := 0#32, tPtr := 0#32, tLen := 0#32
    key := .replicate 8 0#32, nonce := .replicate 3 0#32, counter := 0#32
    tag := .replicate 4 0#32, tagx := .replicate 4 0#32, ks := .replicate 16 0#32
    mac := .zeroized .idle
    otk := .replicate 32 0#8, etag := .replicate 16 0#8
    ksgX := .replicate 16 0#32, ksgW := .replicate 16 0#32
    eq := false }

/-- CLEAR (44_control.md R261). -/
def execClear (s : State) : Host.Outcome State Fault Refusal := .next ((s.clearRegisters).complete .ok)

/-- An illegal command word (30_encoding.md R94): completes with E_ILLEGAL and no other effect. -/
def execIllegal (s : State) : Host.Outcome State Fault Refusal := .next (s.raiseCmdError .eIllegal)

end Sys2Proof.Machine
end

