-- ==== Sys2Proof/Machine/Dispatch.lean ====
section
/-! DEFINITION. One arm per command: which meaning a command has. -/

namespace Sys2Proof.Machine

/-- The completion step of a command (60_exceptions.md R281, R282): its whole effect at once. -/
def exec (i : Instr) (s : State) : Host.Outcome State Fault Refusal :=
  match i with
  | .nop => Sys2Proof.Machine.execNop s
  | .ksBlock => Sys2Proof.Machine.execKsBlock s
  | .macInit => Sys2Proof.Machine.execMacInit s
  | .macUpdate => Sys2Proof.Machine.execMacUpdate s
  | .macFinal => Sys2Proof.Machine.execMacFinal s
  | .aeadEnc => Sys2Proof.Machine.execAeadEnc s
  | .aeadDec => Sys2Proof.Machine.execAeadDec s
  | .ctEq => Sys2Proof.Machine.execCtEq s
  | .clear => Sys2Proof.Machine.execClear s

end Sys2Proof.Machine
end

