-- ==== Sys2Proof/Machine/HostPort.lean ====
section
/-! DEFINITION. The host port: which location an offset names, what a host read and a host write do there, the lock while a
command runs, and whose turn it is. -/

namespace Sys2Proof.Machine

/-- What an offset of the host space names (10_state.md R23, 20_memory.md R66). -/
inductive Loc where
  | id
  | ctrl
  | status
  | cmd
  | aPtr
  | aLen
  | tPtr
  | tLen
  | key (i : Fin 8)
  | nonce (i : Fin 3)
  | counter
  | tag (i : Fin 4)
  | tagx (i : Fin 4)
  | ks (i : Fin 16)
  /-- The DMEM word whose first byte is at DMEM offset k. -/
  | dmem (k : Nat)
  /-- Reserved, RAZ/WI. -/
  | reserved
  deriving DecidableEq, Repr

/-- Which of a run of n registers from offset `base` on an offset names: register i is at `base + 4i` (10_state.md R23). -/
def regIndex (n : Nat) [NeZero n] (base off : Nat) : Fin n := Fin.ofNat n ((off - base) / 4)

/-- Offsets 0x000 to 0x01C (10_state.md R23): one register a word. -/
def controlLoc (off : Nat) : Loc :=
  match off / 4 with
  | 0 => .id
  | 1 => .ctrl
  | 2 => .status
  | 3 => .cmd
  | 4 => .aPtr
  | 5 => .aLen
  | 6 => .tPtr
  | _ => .tLen

/-- Offsets 0x020 to 0x07C (10_state.md R23). -/
def operandLoc (off : Nat) : Loc :=
  if off < 0x040 then .key (regIndex 8 0x020 off)
  else if off < 0x04C then .nonce (regIndex 3 0x040 off)
  else if off < 0x050 then .counter
  else if off < 0x060 then .tag (regIndex 4 0x050 off)
  else if off < 0x070 then .tagx (regIndex 4 0x060 off)
  else .reserved

/-- The register block, offsets 0x000 to 0xFFC (10_state.md R23). -/
def regLoc (off : Nat) : Loc :=
  if off < 0x020 then controlLoc off
  else if off < 0x080 then operandLoc off
  else if off < 0x0C0 then .ks (regIndex 16 0x080 off)
  else .reserved

/-- The register map (10_state.md R23) and the DMEM window (20_memory.md R66, R67), for an offset that is a multiple of 4. -/
def locOf (c : Config) (off : Nat) : Loc :=
  if off < 0x1000 then regLoc off
  else if off < 0x1000 + c.dmemBytes then .dmem (off - 0x1000)
  else .reserved

/-- The locations that are locked while BUSY = 1 (70_reset_and_hazards.md R326); ID, CTRL, STATUS and the reserved space are
not (R327). -/
def Loc.locked : Loc → Bool
  | .id => false
  | .ctrl => false
  | .status => false
  | .cmd => true
  | .aPtr => true
  | .aLen => true
  | .tPtr => true
  | .tLen => true
  | .key _ => true
  | .nonce _ => true
  | .counter => true
  | .tag _ => true
  | .tagx _ => true
  | .ks _ => true
  | .dmem _ => true
  | .reserved => false

/-- The DMEM word at offset k, little-endian; none if one of its bytes has no value (20_memory.md R67). -/
def State.dmemWord (k : Nat) (s : State) : Option Word :=
  match s.memRead k 4 with
  | some B => some (le32 B 0)
  | none => none

/-- What a host read of an unlocked location returns (10_state.md R24 to R43): the write-only CMD and KEY and the reserved
space read as zero; none is a DMEM word with no value. -/
def State.readLoc (l : Loc) (s : State) : Option Word :=
  match l with
  | .id => some s.cfg.idValue
  | .ctrl => some s.ctrlWord
  | .status => some s.statusWord
  | .cmd => some 0#32
  | .aPtr => some s.aPtr
  | .aLen => some s.aLen
  | .tPtr => some s.tPtr
  | .tLen => some s.tLen
  | .key _ => some 0#32
  | .nonce i => some s.nonce[i]
  | .counter => some s.counter
  | .tag i => some s.tag[i]
  | .tagx i => some s.tagx[i]
  | .ks i => some s.ks[i]
  | .dmem k => s.dmemWord k
  | .reserved => some 0#32

/-- What a host write of v to an unlocked location does (10_state.md R24 to R43): ID, KS and the reserved space ignore it; a
write of CMD issues the command word (60_exceptions.md R280). -/
def State.writeLoc (l : Loc) (v : Word) (s : State) : State :=
  match l with
  | .id => s
  | .ctrl => s.writeCtrl v
  | .status => s.writeStatus v
  | .cmd => s.issue v
  | .aPtr => { s with aPtr := v }
  | .aLen => { s with aLen := v }
  | .tPtr => { s with tPtr := v }
  | .tLen => { s with tLen := v }
  | .key i => { s with key := s.key.set i v }
  | .nonce i => { s with nonce := s.nonce.set i v }
  | .counter => { s with counter := v }
  | .tag i => { s with tag := s.tag.set i v }
  | .tagx i => { s with tagx := s.tagx.set i v }
  | .ks _ => s
  | .dmem k => s.memWrite k (wordBytes v)
  | .reserved => s

/-- A location that this state keeps locked (70_reset_and_hazards.md R326). -/
def State.isLocked (l : Loc) (s : State) : Bool := s.busy && l.locked

/-- A host read at a well-formed offset: a locked location returns 0 and sets HAZ (70_reset_and_hazards.md R326). -/
def State.hostRead (off : Word) (s : State) : Host.Outcome State Fault Refusal :=
  if s.isLocked (locOf s.cfg off.toNat) then .next (s.setHaz.noteRead off 0#32)
  else
    match s.readLoc (locOf s.cfg off.toNat) with
    | some v => .next (s.noteRead off v)
    | none => .fault .unwrittenHostRead

/-- A host write at a well-formed offset: a locked location drops it and sets HAZ (70_reset_and_hazards.md R326, R328). -/
def State.hostWrite (off v : Word) (s : State) : Host.Outcome State Fault Refusal :=
  if s.isLocked (locOf s.cfg off.toNat) then .next s.setHaz
  else .next (s.writeLoc (locOf s.cfg off.toNat) v)

/-- One transaction on the bus (20_memory.md R61, 60_exceptions.md R286; log 10). -/
def State.transact (t : Transaction) (s : State) : Host.Outcome State Fault Refusal :=
  if ¬ t.Aligned32 then .fault .busError
  else if ¬ t.off.toNat < 2 ^ s.cfg.addrW then .fault .addressOutsideSpace
  else
    match t with
    | .read off _ => s.hostRead off
    | .write off _ v => s.hostWrite off v

/-- The offset of STATUS (10_state.md R23). -/
def statusOff : Word := 0x008#32

/-- One poll of WAIT (30_encoding.md R98): a read of STATUS, to be repeated while bit 0 of the value read is 1 (log 4). -/
def State.poll (s : State) : Host.Outcome State Fault Refusal :=
  .next (if s.busy then { s.noteRead statusOff s.statusWord with inbox := .wait :: s.inbox }
    else s.noteRead statusOff s.statusWord)

/-- One input from outside. -/
def State.perform (x : HostInput) (s : State) : Host.Outcome State Fault Refusal :=
  match x with
  | .bus t => s.transact t
  | .wait => s.poll
  | .reset => .next s.resetNow

/-- It is SEQ's turn: a command is in progress, and either its delay has run out or nothing more comes from outside
(70_reset_and_hazards.md R329, R331; log 3). -/
def State.seqTurn (s : State) : Bool := s.busy && (s.delay == 0 || s.inbox.isEmpty)

/-- The next input is taken from the list, and the command in progress is one input nearer to its completion (log 3). -/
def State.takeInput (rest : List HostInput) (s : State) : State := { s with inbox := rest, delay := s.delay - 1 }

/-- The HOST's turn: the next input is taken from the list and performed; with no input the CORE waits (70_reset_and_hazards.md
R324; log 11). -/
def State.hostTurn (s : State) : Host.Outcome State Fault Refusal :=
  match s.inbox with
  | [] => .next s
  | x :: rest => (s.takeInput rest).perform x

/-- A command word put where the next step completes it: issued, with no delay left (60_exceptions.md R280; log 12). -/
def State.placeCommand (v : Word) (s : State) : State :=
  { s with pend := v, busy := true, done := false, delay := 0 }

end Sys2Proof.Machine
end

