-- ==== Sys2Proof/Machine/Step.lean ====
section
/-! DEFINITION. One step of the machine: SEQ completes the command in progress, or the next input from outside is
performed. -/

namespace Sys2Proof.Machine

/-- One step. On SEQ's turn the word PEND is decoded and its command completes (60_exceptions.md R281), an illegal word with
E_ILLEGAL (30_encoding.md R94); otherwise it is the HOST's turn (20_memory.md R75, R76). -/
def step (s : State) : Host.Outcome State Fault Refusal :=
  if s.seqTurn then
    match decode s.pend with
    | .ok i => exec i s
    | .error _ => execIllegal s
  else s.hostTurn

/-- The state in which the very next step runs the command whose word is w: the CORE fetches nothing (20_memory.md R79), a
command comes to run by being issued, and this is the state after that issue (log 12). -/
def State.withFetchWord (s : State) (nbits w : Nat) : State := s.placeCommand (BitVec.ofNat 32 (w % 2 ^ nbits))

end Sys2Proof.Machine
end

