-- ==== Sys2Proof/Machine/HostProgram.lean ====
section
/-! DEFINITION. The HOST's program notation (30_encoding.md R97, R98): what each line puts on the bus. -/

namespace Sys2Proof.Machine

/-- `W off, v` as a transaction (30_encoding.md R97). -/
def hostW (off v : Word) : HostInput := .bus (.write off 32 v)

/-- `R off` as a transaction (30_encoding.md R97). -/
def hostR (off : Word) : HostInput := .bus (.read off 32)

/-- `WB off, b0 b1 …`: one word for every four bytes, missing bytes past the last are 0x00 (30_encoding.md R98). The k-th word
goes to `off + 4k`; n words are written. -/
def writeWords : Nat → Word → List Byte → List HostInput
  | 0, _, _ => []
  | n + 1, off, bs => hostW off (le32 (bs ++ zeros 3) 0) :: writeWords n (off + 4#32) (bs.drop 4)

/-- `WB`: `ceil(n/4)` words (30_encoding.md R98). -/
def hostWB (off : Word) (bs : List Byte) : List HostInput := writeWords ((bs.length + 3) / 4) off bs

/-- `RB`: n word reads from `off` on (30_encoding.md R98). -/
def readWords : Nat → Word → List HostInput
  | 0, _ => []
  | n + 1, off => hostR off :: readWords n (off + 4#32)

/-- The offset of CMD (10_state.md R23). -/
def cmdOff : Word := 0x00C#32

/-- What a line puts on the bus (30_encoding.md R97, R98). A name that a read binds stands for the value on the HOST's side
and puts nothing on the bus (log 19). -/
def expandLine : Line → List HostInput
  | .w off v => [hostW off v]
  | .r off => [hostR off]
  | .rBind off _ => [hostR off]
  | .cmd m => [hostW cmdOff (encode m)]
  | .wait => [.wait]
  | .run m => [hostW cmdOff (encode m), .wait]
  | .ack => [hostW statusOff 0x00000002#32]
  | .ackAll => [hostW statusOff 0x00000042#32]
  | .wb off bs => hostWB off bs
  | .key bs => hostWB 0x020#32 bs
  | .nonce bs => hostWB 0x040#32 bs
  | .tag bs => hostWB 0x050#32 bs
  | .tagx bs => hostWB 0x060#32 bs
  | .mem a bs => hostWB (0x1000#32 + a) bs
  | .rb off n _ => readWords ((n + 3) / 4) off

/-- A host program: its lines in order (30_encoding.md R97). -/
def expandProgram (ls : List Line) : List HostInput := ls.flatMap expandLine

/-- The bytes that `RB off, n -> name` binds, from the words read in order: the first n bytes of the values, each
serialised little-endian (30_encoding.md R98). -/
def boundBytes (n : Nat) (values : List Word) : List Byte := (wordsBytes values).take n

/-- A host program handed to the CORE: its inputs come after those already waiting (log 2). -/
def State.withProgram (ls : List Line) (s : State) : State := { s with inbox := s.inbox ++ expandProgram ls }

end Sys2Proof.Machine
end

