-- ==== Sys2Proof/Machine/MacLimbs.lean ====
section
/-! DEFINITION. The 26-bit limb datapath of the MAC (41_mac.md R155, R156, R161 to R164): how the hardware computes the
values of Machine/Mac.lean. No command calls it: the state holds the accumulator as an integer (10_state.md R45; log 6), and
that the two layers give the same tags is stated as an obligation. -/

namespace Sys2Proof.Machine

/-- Five limbs in 32-bit registers (10_state.md R44). -/
abbrev Limbs := Vector Word 5

/-- `Σ h_k · 2^(26k)` (41_mac.md R161). -/
def limbsValue (h : Limbs) : Nat :=
  h[0].toNat + h[1].toNat * 2 ^ 26 + h[2].toNat * 2 ^ 52 + h[3].toNat * 2 ^ 78 + h[4].toNat * 2 ^ 104

/-- The 16 bytes whose limbs a block has: itself if full, padded with 0x01 and zeros if partial (41_mac.md R155, R156). -/
def paddedBlock (m : List Byte) : BlockKind → List Byte
  | .full => m
  | .partialBlock => m ++ 1#8 :: zeros (15 - m.length)

/-- Bit 24 of limb 4: set for a full block, not for a partial one (41_mac.md R155, R156). -/
def highBit : BlockKind → Nat
  | .full => 1 <<< 24
  | .partialBlock => 0

/-- The limbs of a block: `m_k = (LE(m) >> 26k) & 0x3FFFFFF` for k = 0..3, `m_4 = LE(m) >> 104`, with bit 24 for a full block
(41_mac.md R155, R156). -/
def blockLimbs (m : List Byte) (kind : BlockKind) : Limbs :=
  let n := leNat (paddedBlock m kind)
  #v[BitVec.ofNat 32 (n &&& 0x3FFFFFF), BitVec.ofNat 32 ((n >>> 26) &&& 0x3FFFFFF),
     BitVec.ofNat 32 ((n >>> 52) &&& 0x3FFFFFF), BitVec.ofNat 32 ((n >>> 78) &&& 0x3FFFFFF),
     BitVec.ofNat 32 ((n >>> 104) ||| highBit kind)]

/-- Absorbing a block: its limbs are added limb by limb, with no carry (41_mac.md R161). -/
def addLimbs (h m : Limbs) : Limbs := .ofFn fun k => h[k] + m[k]

/-- A limb as a 64-bit number. -/
def wide (w : Word) : BitVec 64 := w.setWidth 64

/-- The 26-bit limb mask, in 64 bits. -/
def limbMask64 : BitVec 64 := 0x3FFFFFF#64

/-- The multiplication by RL and the reduction mod p (41_mac.md R162). The `d_i`, and the two last sums of the chain, are 64-bit
numbers (log 15). -/
def mulLimbs (h r : Limbs) : Limbs :=
  let h0 := wide h[0]
  let h1 := wide h[1]
  let h2 := wide h[2]
  let h3 := wide h[3]
  let h4 := wide h[4]
  let r0 := wide r[0]
  let r1 := wide r[1]
  let r2 := wide r[2]
  let r3 := wide r[3]
  let r4 := wide r[4]
  let S1 := 5#64 * r1
  let S2 := 5#64 * r2
  let S3 := 5#64 * r3
  let S4 := 5#64 * r4
  let d0 := h0 * r0 + h1 * S4 + h2 * S3 + h3 * S2 + h4 * S1
  let d1 := h0 * r1 + h1 * r0 + h2 * S4 + h3 * S3 + h4 * S2
  let d2 := h0 * r2 + h1 * r1 + h2 * r0 + h3 * S4 + h4 * S3
  let d3 := h0 * r3 + h1 * r2 + h2 * r1 + h3 * r0 + h4 * S4
  let d4 := h0 * r4 + h1 * r3 + h2 * r2 + h3 * r1 + h4 * r0
  let c := d0 >>> 26
  let h0 := d0 &&& limbMask64
  let d1 := d1 + c
  let c := d1 >>> 26
  let h1 := d1 &&& limbMask64
  let d2 := d2 + c
  let c := d2 >>> 26
  let h2 := d2 &&& limbMask64
  let d3 := d3 + c
  let c := d3 >>> 26
  let h3 := d3 &&& limbMask64
  let d4 := d4 + c
  let c := d4 >>> 26
  let h4 := d4 &&& limbMask64
  let h0 := h0 + c * 5#64
  let c := h0 >>> 26
  let h0 := h0 &&& limbMask64
  let h1 := h1 + c
  #v[h0.setWidth 32, h1.setWidth 32, h2.setWidth 32, h3.setWidth 32, h4.setWidth 32]

/-- One block step on limbs (41_mac.md R161, R162). -/
def limbBlock (r h : Limbs) (m : List Byte) (kind : BlockKind) : Limbs := mulLimbs (addLimbs h (blockLimbs m kind)) r

/-- The 26-bit limb mask. -/
def limbMask : Word := 0x3FFFFFF#32

/-- The final carry (first half of 41_mac.md R163). -/
def carryLimbs (h : Limbs) : Limbs :=
  let c := h[1] >>> 26
  let h1 := h[1] &&& limbMask
  let h2 := h[2] + c
  let c := h2 >>> 26
  let h2 := h2 &&& limbMask
  let h3 := h[3] + c
  let c := h3 >>> 26
  let h3 := h3 &&& limbMask
  let h4 := h[4] + c
  let c := h4 >>> 26
  let h4 := h4 &&& limbMask
  let h0 := h[0] + c * 5#32
  let c := h0 >>> 26
  let h0 := h0 &&& limbMask
  let h1 := h1 + c
  #v[h0, h1, h2, h3, h4]

/-- The conditional subtraction of p by a full-mask select, with no branch (second half of 41_mac.md R163). -/
def selectLimbs (h : Limbs) : Limbs :=
  let g0 := h[0] + 5#32
  let c := g0 >>> 26
  let g0 := g0 &&& limbMask
  let g1 := h[1] + c
  let c := g1 >>> 26
  let g1 := g1 &&& limbMask
  let g2 := h[2] + c
  let c := g2 >>> 26
  let g2 := g2 &&& limbMask
  let g3 := h[3] + c
  let c := g3 >>> 26
  let g3 := g3 &&& limbMask
  let g4 := h[4] + c - 0x4000000#32
  let mask := (g4 >>> 31) - 1#32
  #v[(h[0] &&& ~~~mask) ||| (g0 &&& mask), (h[1] &&& ~~~mask) ||| (g1 &&& mask),
     (h[2] &&& ~~~mask) ||| (g2 &&& mask), (h[3] &&& ~~~mask) ||| (g3 &&& mask),
     (h[4] &&& ~~~mask) ||| (g4 &&& mask)]

/-- The final reduction (41_mac.md R163). -/
def reduceLimbs (h : Limbs) : Limbs := selectLimbs (carryLimbs h)

/-- The low 128 bits of the limbs, `(h0 | h1<<26 | h2<<52 | h3<<78 | h4<<104) mod 2^128` (41_mac.md R164). -/
def limbsLow128 (h : Limbs) : BitVec 128 :=
  h[0].setWidth 128 ||| (h[1].setWidth 128 <<< 26) ||| (h[2].setWidth 128 <<< 52) ||| (h[3].setWidth 128 <<< 78) |||
    (h[4].setWidth 128 <<< 104)

/-- One word of the pad addition: the sum's low 32 bits and its carry (41_mac.md R164). -/
def padStep (w s : Word) (carry : Nat) : Word × Nat :=
  let t := w.toNat + s.toNat + carry
  (BitVec.ofNat 32 t, t >>> 32)

/-- The pad is added in words, and the carry out of the last word is dropped (41_mac.md R164). -/
def padLimbs (h : Limbs) (sp : Vector Word 4) : List Byte :=
  let v := limbsLow128 h
  let a := padStep (v.extractLsb' 0 32) sp[0] 0
  let b := padStep (v.extractLsb' 32 32) sp[1] a.2
  let c := padStep (v.extractLsb' 64 32) sp[2] b.2
  let d := padStep (v.extractLsb' 96 32) sp[3] c.2
  wordBytes a.1 ++ wordBytes b.1 ++ wordBytes c.1 ++ wordBytes d.1

/-- The first n full blocks of S on limbs. -/
def limbBlocks (r : Limbs) : Nat → Limbs → List Byte → Limbs
  | 0, h, _ => h
  | n + 1, h, S => limbBlocks r n (limbBlock r h (S.take 16) .full) (S.drop 16)

/-- The limbs after a whole message: its full blocks, then the partial one if there is one. -/
def limbMessage (r : Limbs) (S : List Byte) : Limbs :=
  let n := S.length / 16
  let h := limbBlocks r n (.replicate 5 0#32) S
  if 0 < S.length - 16 * n then limbBlock r h (S.drop (16 * n)) .partialBlock else h

/-- The tag of a message, by the limb datapath from end to end. -/
def limbTag (OTK S : List Byte) : List Byte :=
  padLimbs (reduceLimbs (limbMessage (clampLimbs (OTK.take 16)) S)) (padWords ((OTK.drop 16).take 16))

end Sys2Proof.Machine
end

