-- ==== Sys2Proof/Safety.lean ====
section
/-! DEFINITION. What the claims speak of: the invariant of the machine, and what the HOST can and cannot see of a state. -/

namespace Sys2Proof.Machine

/-- The invariant: what the spec promises of every state the CORE can be in. -/
structure CoreInv (s : State) : Prop where
  /-- The parameters meet their constraints (00_scope.md R8). -/
  cfgWF : s.cfg.WF
  /-- DMEM is in its canonical form. -/
  dmemWf : s.dmem.wf
  /-- Only offsets 0 .. DMEM_BYTES − 1 are DMEM (20_memory.md R60). -/
  dmemInRange : ∀ c ∈ s.dmem, c.1 < s.cfg.dmemBytes
  /-- BUSY = 1 comes with DONE = 0 (10_state.md R29, 60_exceptions.md R292). -/
  busyNotDone : s.busy = true → s.done = false
  /-- With no command in progress PEND is 0 (60_exceptions.md R282) and no delay is left (log 3). -/
  idleNoCommand : s.busy = false → s.pend = 0#32 ∧ s.delay = 0
  /-- OTK is zero outside an AEAD command (10_state.md R47). -/
  otkZero : s.otk = .replicate 32 0#8
  /-- ETAG is zero outside an AEAD command (10_state.md R47). -/
  etagZero : s.etag = .replicate 16 0#8
  /-- With no open session the MAC state is zero (10_state.md R31). -/
  noSessionZero : s.mac.st ≠ .active → s.mac = .zeroized s.mac.st
  /-- RL holds clamped limbs (41_mac.md R153). -/
  rlClamped : ∀ k : Fin 5, s.mac.rl[k] &&& clampMask[k] = s.mac.rl[k]
  /-- The bytes of BUF past BUFLEN are zero (41_mac.md R157). -/
  bufTailZero : ∀ i : Fin 15, s.mac.bufLen.val ≤ i.val → s.mac.buf[i] = 0#8

/-- A state with everything wiped that has no host address or is write-only: KEY, the MAC state but for MAC_ST, OTK, ETAG, X
and W (10_state.md R48, 60_exceptions.md R296). -/
def State.hideSecrets (s : State) : State :=
  { s with key := .replicate 8 0#32, mac := .zeroized s.mac.st, otk := .replicate 32 0#8, etag := .replicate 16 0#8,
           ksgX := .replicate 16 0#32, ksgW := .replicate 16 0#32 }

/-- A state with everything wiped that the lock hides as well while a command runs: DMEM, every operand and output register
and the command itself (70_reset_and_hazards.md R326). -/
def State.hideLocked (s : State) : State :=
  { s.hideSecrets with
    aPtr := 0#32, aLen := 0#32, tPtr := 0#32, tLen := 0#32, nonce := .replicate 3 0#32, counter := 0#32
    tag := .replicate 4 0#32, tagx := .replicate 4 0#32, ks := .replicate 16 0#32, dmem := [], pend := 0#32 }

/-- Two outcomes that a HOST cannot tell apart through a view of the state. -/
def SameView (view : State → State) : Host.Outcome State Fault Refusal → Host.Outcome State Fault Refusal → Prop
  | .next s, .next t => view s = view t
  | .fault f, .fault g => f = g
  | .refused f, .refused g => f = g
  | .next _, .fault _ => False
  | .next _, .refused _ => False
  | .fault _, .next _ => False
  | .fault _, .refused _ => False
  | .refused _, .next _ => False
  | .refused _, .fault _ => False

/-- The bounds that hold of the accumulator's limbs between block steps (41_mac.md R161). -/
def LimbsBounded (h : Limbs) : Prop :=
  h[0].toNat < 2 ^ 26 ∧ h[1].toNat < 2 ^ 26 + 2 ^ 6 ∧ h[2].toNat < 2 ^ 26 ∧ h[3].toNat < 2 ^ 26 ∧ h[4].toNat < 2 ^ 26

/-- Every limb is below 2^26. -/
def LimbsSmall (h : Limbs) : Prop := ∀ k : Fin 5, h[k].toNat < 2 ^ 26

end Sys2Proof.Machine
end

