-- ==== Sys2Proof/Certificates/Slice0/Obligations.lean ====
section
/-! DEFINITION. The statements for the provers. Each formalises a rule of the spec, or, where its docstring says so, a
consequence of several or a choice of the model. -/

open Sys2Proof Sys2Proof.Machine

/-! ## Command words -/

/-- The nine command words, written out from 30_encoding.md R93, decode to their commands. -/
def Obligations.TableWordsDecode : Prop :=
  decode 0x00000000#32 = .ok .nop ∧ decode 0x00000010#32 = .ok .ksBlock ∧ decode 0x00000020#32 = .ok .macInit ∧
  decode 0x00000021#32 = .ok .macUpdate ∧ decode 0x00000022#32 = .ok .macFinal ∧ decode 0x00000030#32 = .ok .aeadEnc ∧
  decode 0x00000031#32 = .ok .aeadDec ∧ decode 0x00000040#32 = .ok .ctEq ∧ decode 0x000000F0#32 = .ok .clear

/-- 30_encoding.md R93: every row is a full 32-bit match. A word decodes to a command iff it is that command's word of the
table, which is the word the encoder gives. -/
def Obligations.DecodeIsFullWordMatch : Prop :=
  (∀ w i, decode w = .ok i ↔ (w, i) ∈
    [(0x00000000#32, Instr.nop), (0x00000010#32, .ksBlock), (0x00000020#32, .macInit), (0x00000021#32, .macUpdate),
     (0x00000022#32, .macFinal), (0x00000030#32, .aeadEnc), (0x00000031#32, .aeadDec), (0x00000040#32, .ctEq),
     (0x000000F0#32, .clear)]) ∧
  ∀ w i, decode w = .ok i ↔ w = encode i

/-- 30_encoding.md R94: a word is illegal iff RSV ≠ 0 or its bits 7:0 are no opcode; an illegal word written to CMD goes
through issue, and it completes with E_ILLEGAL and no other effect. (Nothing is said of `delay` and `lats`, the model's own
schedule, log 3.) -/
def Obligations.IllegalWordsAreAcceptedAndRejected : Prop :=
  (∀ w, (∃ r, decode w = .error r) ↔
    w.extractLsb' 8 24 ≠ 0#24 ∨
      w.extractLsb' 0 8 ∉ [0x00#8, 0x10#8, 0x20#8, 0x21#8, 0x22#8, 0x30#8, 0x31#8, 0x40#8, 0xF0#8]) ∧
  (∀ s w rest, (∃ r, decode w = .error r) → s.cfg.WF → s.busy = false →
    s.inbox = .bus (.write 0x00C#32 32 w) :: rest →
    ∃ t, step s = .next t ∧
      t = { s with inbox := rest, pend := w, busy := true, done := false, delay := t.delay, lats := t.lats }) ∧
  ∀ s, (∃ r, decode s.pend = .error r) → s.seqTurn = true →
    ∃ t, step s = .next t ∧
      t = { s with err := .eIllegal, busy := false, done := true, pend := 0#32, delay := t.delay }

/-! ## Issue and completion -/

/-- On SEQ's turn a step is the completion step of the command that PEND decodes to (60_exceptions.md R281). The second clause
is the model's choice, log 12: `withFetchWord`, which the spec does not have (20_memory.md R79: nothing is fetched), leaves a
command word where the very next step runs it. The third is the model's schedule, log 3: SEQ's turn comes when a command is in
progress and its delay has run out or no input is left (70_reset_and_hazards.md R329 leaves the point of completion open). -/
def Obligations.StepRunsDecodedCommand : Prop :=
  (∀ (s : State) (i : Instr), s.seqTurn = true → decode s.pend = .ok i → step s = exec i s) ∧
  (∀ (s : State) (i : Instr), step (s.withFetchWord 32 (encode i).toNat) = exec i (s.withFetchWord 32 (encode i).toNat)) ∧
  ∀ s : State, s.seqTurn = true ↔ s.busy = true ∧ (s.delay = 0 ∨ s.inbox = [])

/-- 60_exceptions.md R280 and 70_reset_and_hazards.md R328: a CMD write while BUSY = 0 latches the word, sets BUSY, clears DONE
(so IRQ is 0) and changes no other state; while BUSY = 1 it is dropped and sets HAZ. (Nothing is said of `delay` and `lats`,
the model's own schedule, log 3.) -/
def Obligations.CmdWriteIssuesOrIsDropped : Prop :=
  (∀ s v rest, s.cfg.WF → s.busy = false → s.inbox = .bus (.write 0x00C#32 32 v) :: rest →
    ∃ t, step s = .next t ∧ t.irq = false ∧
      t = { s with inbox := rest, pend := v, busy := true, done := false, delay := t.delay, lats := t.lats }) ∧
  ∀ s v rest, s.cfg.WF → s.busy = true → s.seqTurn = false → s.inbox = .bus (.write 0x00C#32 32 v) :: rest →
    ∃ t, step s = .next t ∧ t = { s with inbox := rest, haz := true, delay := t.delay }

/-- A command in progress completes within `delay + 1` steps, unless reset comes first: with no delay left the step completes
it, and a step that leaves it in progress leaves its word and has brought it one step nearer (60_exceptions.md R282, "A
command never stops halfway and never hangs"; the count is the model's, log 3). -/
def Obligations.BusyCommandComesNearer : Prop :=
  ∀ s t, s.busy = true → step s = .next t →
    (s.delay = 0 → t.busy = false ∧ t.done = true) ∧
    (t.busy = true → t.delay + 1 = s.delay ∧ t.pend = s.pend ∧ t.err = s.err) ∧
    (t.busy = false → t.delay = 0 ∧ t.pend = 0#32)

/-- Every command that answers a next state has completed: BUSY = 0, DONE = 1, PEND = 0, IRQ = CTRL.IE; and no command touches
CTRL, HAZ, the parameters, the inputs still to come, the schedule or what the HOST has read (60_exceptions.md R282, 10_state.md
R26, R32; no delay is left, log 3). -/
def Obligations.EveryCommandCompletes : Prop :=
  ∀ i s t, exec i s = .next t →
    t.busy = false ∧ t.done = true ∧ t.pend = 0#32 ∧ t.delay = 0 ∧ t.irq = s.ie ∧ t.ie = s.ie ∧ t.haz = s.haz ∧ t.cfg = s.cfg ∧
      t.inbox = s.inbox ∧ t.lats = s.lats ∧ t.readLog = s.readLog

/-- Which status codes each command can end with (60_exceptions.md R283), and their numbers. -/
def Obligations.StatusCodesOfCommands : Prop :=
  (∀ i s t, exec i s = .next t → t.err ∈
    (match i with
      | .nop => [Code.ok]
      | .ksBlock => [.ok]
      | .macInit => [.ok]
      | .macUpdate => [.ok, .eMacState, .eRange]
      | .macFinal => [.ok, .eMacState]
      | .aeadEnc => [.ok, .eRange, .eOverlap]
      | .aeadDec => [.ok, .eRange, .eOverlap, .eAuth]
      | .ctEq => [.ok]
      | .clear => [.ok])) ∧
  (Code.ok.bits = 0#4 ∧ Code.eIllegal.bits = 1#4 ∧ Code.eMacState.bits = 2#4 ∧ Code.eRange.bits = 3#4 ∧
    Code.eOverlap.bits = 4#4 ∧ Code.eAuth.bits = 5#4)

/-- 60_exceptions.md R284: a command that ends with a precondition error (codes 1 to 4) has done nothing else. E_AUTH is not
raised this way: AEAD_DEC's failure path writes EQ and zeroizes. -/
def Obligations.PreconditionErrorsChangeNothingElse : Prop :=
  (∀ i s t, exec i s = .next t → t.err ∈ [Code.eIllegal, .eMacState, .eRange, .eOverlap] →
    t = { s with err := t.err, busy := false, done := true, pend := 0#32, delay := t.delay }) ∧
  (∀ s, ∃ t, execIllegal s = .next t ∧
    t = { s with err := .eIllegal, busy := false, done := true, pend := 0#32, delay := t.delay }) ∧
  ∀ s t, exec .aeadDec s = .next t → t.err = .eAuth →
    t.eq = false ∧ t.otk = .replicate 32 0#8 ∧ t.etag = .replicate 16 0#8 ∧ t.mac = .zeroized .idle

/-- 60_exceptions.md R285: the first check in the listed order decides the code, and E_AUTH comes from AEAD_DEC only, and only
once its checks have passed. -/
def Obligations.FirstFailingCheckDecides : Prop :=
  (∀ s, s.seqTurn = true → (∃ r, decode s.pend = .error r) →
    ∃ t, step s = .next t ∧ t.err = .eIllegal) ∧
  (∀ s, s.mac.st ≠ .active → ∃ t, exec .macUpdate s = .next t ∧ t.err = .eMacState) ∧
  (∀ s, s.mac.st = .active → s.tPtr.toNat + s.tLen.toNat > s.cfg.dmemBytes →
    ∃ t, exec .macUpdate s = .next t ∧ t.err = .eRange) ∧
  (∀ s, s.mac.st ≠ .active → ∃ t, exec .macFinal s = .next t ∧ t.err = .eMacState) ∧
  (∀ i s, i = .aeadEnc ∨ i = .aeadDec →
    (s.aPtr.toNat + s.aLen.toNat > s.cfg.dmemBytes → ∃ t, exec i s = .next t ∧ t.err = .eRange) ∧
    (s.aPtr.toNat + s.aLen.toNat ≤ s.cfg.dmemBytes → s.tPtr.toNat + s.tLen.toNat > s.cfg.dmemBytes →
      ∃ t, exec i s = .next t ∧ t.err = .eRange) ∧
    (s.aPtr.toNat + s.aLen.toNat ≤ s.cfg.dmemBytes → s.tPtr.toNat + s.tLen.toNat ≤ s.cfg.dmemBytes →
      0 < s.aLen.toNat → 0 < s.tLen.toNat → s.aPtr.toNat < s.tPtr.toNat + s.tLen.toNat →
      s.tPtr.toNat < s.aPtr.toNat + s.aLen.toNat → ∃ t, exec i s = .next t ∧ t.err = .eOverlap)) ∧
  ∀ i s t, exec i s = .next t → t.err = .eAuth → i = .aeadDec ∧
    s.aPtr.toNat + s.aLen.toNat ≤ s.cfg.dmemBytes ∧ s.tPtr.toNat + s.tLen.toNat ≤ s.cfg.dmemBytes ∧
      (s.aLen.toNat = 0 ∨ s.tLen.toNat = 0 ∨ s.tPtr.toNat + s.tLen.toNat ≤ s.aPtr.toNat ∨
        s.aPtr.toNat + s.aLen.toNat ≤ s.tPtr.toNat)

/-! ## NOP, CLEAR, CT_EQ -/

/-- 44_control.md R260: NOP is the word 0; its CMD write is an issue like any other, which clears DONE, and it only completes, in
every state, which sets DONE. (Nothing is said of `delay` and `lats`, the model's own schedule, log 3.) -/
def Obligations.NopOnlyCompletes : Prop :=
  decode 0x00000000#32 = .ok .nop ∧
  (∀ s rest, s.cfg.WF → s.busy = false → s.inbox = .bus (.write 0x00C#32 32 0x00000000#32) :: rest →
    ∃ t, step s = .next t ∧
      t = { s with inbox := rest, pend := 0x00000000#32, busy := true, done := false, delay := t.delay,
                   lats := t.lats }) ∧
  ∀ s, ∃ t, exec .nop s = .next t ∧
    t = { s with err := .ok, busy := false, done := true, pend := 0#32, delay := t.delay }

/-- 44_control.md R261: CLEAR is the word 0xF0; after it everything has its reset value but CTRL, HAZ, DONE = 1 and DMEM (and
the fields that are the model's own). -/
def Obligations.ClearZeroizes : Prop :=
  decode 0x000000F0#32 = .ok .clear ∧
  ∀ s, ∃ t, exec .clear s = .next t ∧
    t = { State.resetWith s.cfg with
      ie := s.ie, haz := s.haz, done := true, dmem := s.dmem
      fresh := s.fresh, delay := t.delay, lats := s.lats, inbox := s.inbox, readLog := s.readLog }

/-- 43_cteq.md R241: CT_EQ is the word 0x40; EQ becomes 1 if the bytes of TAG and TAGX are equal, else 0, and nothing else
changes but the status. -/
def Obligations.CtEqSetsEq : Prop :=
  decode 0x00000040#32 = .ok .ctEq ∧
  ∀ s, ∃ t, exec .ctEq s = .next t ∧ (t.eq = true ↔ s.tagBytes = s.tagxBytes) ∧
    t = { s with eq := t.eq, err := .ok, busy := false, done := true, pend := 0#32, delay := t.delay }

/-- 43_cteq.md R240: CtEq ors the differences of all 16 byte pairs and tests the sum once; it is 1 iff the strings are equal,
and it is symmetric. -/
def Obligations.CtEqIffEqual : Prop :=
  ∀ a b : List Byte, a.length = 16 → b.length = 16 →
    ctEqAcc a b = (List.range 16).foldl (fun acc i => acc ||| (a.getD i 0#8 ^^^ b.getD i 0#8)) 0#8 ∧
    (ctEq a b = true ↔ ctEqAcc a b = 0#8) ∧ (ctEq a b = true ↔ a = b) ∧ ctEq a b = ctEq b a

/-! ## The keystream generator -/

/-- 40_keystream.md R129: KS_BLOCK is the word 0x10; KSi becomes LE32 of byte 4i of the block of KEY, COUNTER and NONCE, and
nothing else changes but the status and the generator's own X and W, which the model leaves free (log 7). -/
def Obligations.KsBlockWritesKeystream : Prop :=
  decode 0x00000010#32 = .ok .ksBlock ∧
  ∀ s, ∃ t, exec .ksBlock s = .next t ∧
    (∀ i : Fin 16, t.ks[i] = le32 (chachaBlock s.keyBytes s.counter s.nonceBytes) (4 * i.val)) ∧
    t = { s with ks := t.ks, ksgX := t.ksgX, ksgW := t.ksgW, fresh := t.fresh
                 err := .ok, busy := false, done := true, pend := 0#32, delay := t.delay }

/-- 40_keystream.md R126: the block is 64 bytes, and its word i is word i of the matrix after ten double rounds
plus word i of the initial matrix (R122), which holds the four constants (R121), the eight key words, the counter and the
three nonce words. -/
def Obligations.BlockIsTenDoubleRoundsPlusInput : Prop :=
  ∀ K ctr N, (chachaBlock K ctr N).length = 64 ∧
    ∀ X : KsgMatrix,
      X = #v[0x61707865#32, 0x3320646E#32, 0x79622D32#32, 0x6B206574#32,
             le32 K 0, le32 K 4, le32 K 8, le32 K 12, le32 K 16, le32 K 20, le32 K 24, le32 K 28,
             ctr, le32 N 0, le32 N 4, le32 N 8] →
      ∀ i : Fin 16, le32 (chachaBlock K ctr N) (4 * i.val) = (doubleRound^[10] X)[i] + X[i]

/-- 40_keystream.md R124: on four different indices QR puts the quarter-round's four words in their places and leaves the
other twelve; and the indices of every tuple of R123 are different. -/
def Obligations.QuarterRoundTouchesFourWords : Prop :=
  (∀ q ∈ ([[0, 4, 8, 12], [1, 5, 9, 13], [2, 6, 10, 14], [3, 7, 11, 15],
           [0, 5, 10, 15], [1, 6, 11, 12], [2, 7, 8, 13], [3, 4, 9, 14]] : List (List (Fin 16))), q.Nodup) ∧
  ∀ (W : KsgMatrix) (a b c d : Fin 16), [a, b, c, d].Nodup →
    ∀ a1 d1 c1 b1 a2 d2 c2 b2 : Word,
      a1 = W[a] + W[b] → d1 = rotl32 (W[d] ^^^ a1) 16 → c1 = W[c] + d1 → b1 = rotl32 (W[b] ^^^ c1) 12 →
      a2 = a1 + b1 → d2 = rotl32 (d1 ^^^ a2) 8 → c2 = c1 + d2 → b2 = rotl32 (b1 ^^^ c2) 7 →
      (qr W a b c d)[a] = a2 ∧ (qr W a b c d)[b] = b2 ∧ (qr W a b c d)[c] = c2 ∧ (qr W a b c d)[d] = d2 ∧
      ∀ i : Fin 16, i ∉ [a, b, c, d] → (qr W a b c d)[i] = W[i]

/-- 40_keystream.md R125: quarter-rounds on tuples that share no index may be done in either order; the double round does the
columns first, then the diagonals. -/
def Obligations.DisjointQuarterRoundsCommute : Prop :=
  (∀ (W : KsgMatrix) (a b c d e f g h : Fin 16), [a, b, c, d, e, f, g, h].Nodup →
    qr (qr W a b c d) e f g h = qr (qr W e f g h) a b c d) ∧
  ∀ W : KsgMatrix, doubleRound W =
    qr (qr (qr (qr (qr (qr (qr (qr W 0 4 8 12) 1 5 9 13) 2 6 10 14) 3 7 11 15) 0 5 10 15) 1 6 11 12) 2 7 8 13) 3 4 9 14

/-- The double round is a permutation of the matrices: it loses nothing of its input (40_keystream.md R128, "This is a
permutation"). -/
def Obligations.DoubleRoundIsInjective : Prop := Function.Injective doubleRound

/-! ## The MAC -/

/-- MAC_INIT is the word 0x20; from every MAC_ST it opens a session with r clamped and s taken from KEY, an empty buffer and
accumulator 0, and nothing else changes but the status (41_mac.md R165). That the OTK register is among what does not change
is the model's reading, log 8: the OTK of R165's pseudocode is the operand. A session keyed with zeros has the zero tag,
whatever it absorbs. -/
def Obligations.MacInitOpensSession : Prop :=
  decode 0x00000020#32 = .ok .macInit ∧
  (∀ s, ∃ t, exec .macInit s = .next t ∧
    t = { s with mac := t.mac, err := .ok, busy := false, done := true, pend := 0#32, delay := t.delay } ∧
    t.mac.acc.val = 0 ∧ t.mac.rl = clampLimbs (s.keyBytes.take 16) ∧
    (∀ i : Fin 4, t.mac.sp[i] = le32 s.keyBytes (16 + 4 * i.val)) ∧
    t.mac.buf = .replicate 15 0#8 ∧ t.mac.bufLen.val = 0 ∧ t.mac.st = .active) ∧
  ∀ s t, s.keyBytes = zeros 32 → exec .macInit s = .next t →
    ∀ D : List Byte, (macAbsorb t.mac D).finalTag = zeros 16

/-- 41_mac.md R153: each limb is the shifted 128-bit number under its mask, which is the word read at byte 3i, shifted by 2i,
under the same mask; together they are the number under one 128-bit mask. -/
def Obligations.ClampingIsOneMask : Prop :=
  ∀ r : List Byte, r.length = 16 →
    (clampLimbs r)[0] = BitVec.ofNat 32 ((leNat r >>> 0) &&& 0x3FFFFFF) ∧
    (clampLimbs r)[1] = BitVec.ofNat 32 ((leNat r >>> 26) &&& 0x3FFFF03) ∧
    (clampLimbs r)[2] = BitVec.ofNat 32 ((leNat r >>> 52) &&& 0x3FFC0FF) ∧
    (clampLimbs r)[3] = BitVec.ofNat 32 ((leNat r >>> 78) &&& 0x3F03FFF) ∧
    (clampLimbs r)[4] = BitVec.ofNat 32 ((leNat r >>> 104) &&& 0x00FFFFF) ∧
    (∀ k : Fin 5, (clampLimbs r)[k] = (le32 r (3 * k.val) >>> (2 * k.val)) &&& clampMask[k]) ∧
    limbsValue (clampLimbs r) = leNat r &&& 0x0FFFFFFC0FFFFFFC0FFFFFFC0FFFFFFF

/-- MAC_UPDATE, the word 0x21 (41_mac.md R166): E_MAC_STATE without a session, then E_RANGE for an invalid region, each with no
other effect; otherwise the T region is absorbed, and an empty one changes nothing; a byte with no value is a fault. The
last clause takes the invariant as a premise: past BUFLEN the buffer is zero. -/
def Obligations.MacUpdateAbsorbsText : Prop :=
  decode 0x00000021#32 = .ok .macUpdate ∧
  (∀ s, s.mac.st ≠ .active → ∃ t, exec .macUpdate s = .next t ∧
    t = { s with err := .eMacState, busy := false, done := true, pend := 0#32, delay := t.delay }) ∧
  (∀ s, s.mac.st = .active → s.tPtr.toNat + s.tLen.toNat > s.cfg.dmemBytes → ∃ t, exec .macUpdate s = .next t ∧
    t = { s with err := .eRange, busy := false, done := true, pend := 0#32, delay := t.delay }) ∧
  (∀ s D, s.mac.st = .active → s.tPtr.toNat + s.tLen.toNat ≤ s.cfg.dmemBytes → s.readT = some D →
    ∃ t, exec .macUpdate s = .next t ∧ t.mac.bufLen.val = (s.mac.bufLen.val + D.length) % 16 ∧
      t = { s with mac := macAbsorb s.mac D, err := .ok, busy := false, done := true, pend := 0#32,
                   delay := t.delay }) ∧
  (∀ s, s.mac.st = .active → s.tPtr.toNat + s.tLen.toNat ≤ s.cfg.dmemBytes → s.readT = none →
    exec .macUpdate s = .fault .unwrittenCommandRead) ∧
  ∀ s, CoreInv s → s.mac.st = .active → s.tLen = 0#32 → s.tPtr.toNat ≤ s.cfg.dmemBytes →
    ∃ t, exec .macUpdate s = .next t ∧
      t = { s with err := .ok, busy := false, done := true, pend := 0#32, delay := t.delay }

/-- 41_mac.md R157: what a run of MacAbsorb calls gives depends only on the concatenation of their inputs. -/
def Obligations.AbsorbingIgnoresSplit : Prop :=
  (∀ m D E, macAbsorb (macAbsorb m D) E = macAbsorb m (D ++ E)) ∧
  ∀ m D, (macAbsorb m D).bufLen.val = (m.bufLen.val + D.length) % 16 ∧
    (macAbsorb m D).pending = (m.pending ++ D).drop (16 * ((m.pending ++ D).length / 16)) ∧
    ∀ i : Fin 15, (macAbsorb m D).bufLen.val ≤ i.val → (macAbsorb m D).buf[i] = 0#8

/-- Two MAC_UPDATEs over neighbouring regions leave the MAC as one MAC_UPDATE over their union does (41_mac.md R166, third
corner case). -/
def Obligations.TwoMacUpdatesAreOne : Prop :=
  ∀ (s t1 t2 : State) (P L1 L2 : Word), s.cfg.WF →
    exec .macUpdate { s with tPtr := P, tLen := L1 } = .next t1 → t1.err = .ok →
    exec .macUpdate { t1 with tPtr := P + L1, tLen := L2 } = .next t2 → t2.err = .ok →
    ∃ u, exec .macUpdate { s with tPtr := P, tLen := L1 + L2 } = .next u ∧ u.err = .ok ∧ u.mac = t2.mac

/-- The accumulator after n full blocks is the polynomial in r that 41_mac.md R158 evaluates step by step: every block value
times the power of r that is left to go, mod p. -/
def Obligations.BlocksEvaluatePolynomial : Prop :=
  ∀ (rv n : Nat) (acc : Fin p) (S : List Byte),
    (absorbBlocks rv n acc S).val =
      (acc.val * rv ^ n +
        ∑ j ∈ Finset.range n, (leNat ((S.drop (16 * j)).take 16) + 2 ^ 128) * rv ^ (n - j)) % (2 ^ 130 - 5)

/-- 41_mac.md R167, MAC_FINAL, the word 0x22: without an open session E_MAC_STATE and no other effect; otherwise TAG holds the
tag, ACC, RL, SP, BUF and BUFLEN are zero, MAC_ST is FINALIZED, and nothing else changes but the status. The tag is (h + s)
mod 2^128 with h the accumulator after the partial block, if there is one (R160); with nothing absorbed it is s. No other
command but AEAD_ENC and CLEAR writes TAG. -/
def Obligations.MacFinalWritesTag : Prop :=
  decode 0x00000022#32 = .ok .macFinal ∧
  (∀ s, s.mac.st ≠ .active → ∃ t, exec .macFinal s = .next t ∧
    t = { s with err := .eMacState, busy := false, done := true, pend := 0#32, delay := t.delay }) ∧
  (∀ s, s.mac.st = .active → ∃ t, exec .macFinal s = .next t ∧
    (∀ i : Fin 4, t.tag[i] = le32 s.mac.finalTag (4 * i.val)) ∧
    t = { s with tag := t.tag, mac := .zeroized .finalized, err := .ok, busy := false, done := true,
                 pend := 0#32, delay := t.delay }) ∧
  (∀ OTK : List Byte, OTK.length = 32 → (macInit OTK).finalTag = OTK.drop 16) ∧
  (∀ i s t, exec i s = .next t → i ≠ .macFinal → i ≠ .aeadEnc → i ≠ .clear → t.tag = s.tag) ∧
  ∀ m : MacState,
    m.finalTag = leBytes 16 ((m.finalAcc.val + m.sv) % 2 ^ 128) ∧
    (m.bufLen.val = 0 → m.finalAcc = m.acc) ∧
    (0 < m.bufLen.val → m.finalAcc.val =
      ((m.acc.val + (leNat m.pending + 2 ^ (8 * m.bufLen.val))) * m.rv) % (2 ^ 130 - 5))

/-- 41_mac.md R161 and R162: one block step on limbs keeps the limbs within their bounds and computes the block step of R158
on their values. -/
def Obligations.LimbBlockStepRefinesValue : Prop :=
  ∀ (r h : Limbs) (m : List Byte) (kind : BlockKind),
    LimbsBounded h → (∀ k : Fin 5, r[k] &&& clampMask[k] = r[k]) →
    (kind = .full → m.length = 16) → (kind = .partialBlock → 1 ≤ m.length ∧ m.length ≤ 15) →
    LimbsBounded (limbBlock r h m kind) ∧
    limbsValue (limbBlock r h m kind) % (2 ^ 130 - 5) =
      ((limbsValue h + blockValue m kind) * limbsValue r) % (2 ^ 130 - 5)

/-- 41_mac.md R163: the final carry and the masked select give the canonical value, in limbs below 2^26. -/
def Obligations.LimbReductionIsCanonical : Prop :=
  ∀ h : Limbs, LimbsBounded h →
    LimbsSmall (reduceLimbs h) ∧ limbsValue (reduceLimbs h) = limbsValue h % (2 ^ 130 - 5)

/-- 41_mac.md R164: the word-wise pad addition is the addition mod 2^128 of R160. -/
def Obligations.PadAdditionInWords : Prop :=
  ∀ (h : Limbs) (m : MacState), LimbsSmall h →
    padLimbs h m.sp = leBytes 16 ((limbsValue h + m.sv) % 2 ^ 128)

/-- 10_state.md R45: the limb datapath of 41_mac.md R161 to R164 and the value rules R158 to R160 give the same tag, for every
one-time key and every message. -/
def Obligations.LimbTagEqualsValueTag : Prop :=
  ∀ OTK S : List Byte, OTK.length = 32 → limbTag OTK S = (macAbsorb (macInit OTK) S).finalTag

/-! ## The AEAD orchestrator -/

/-- 42_aead.md R206, AEAD_ENC, the word 0x30: past its checks, with every byte it reads written, it puts the ciphertext over
the plaintext, the tag over the ciphertext in TAG, and zeroizes; a failed check is a code and nothing else; a byte with no
value is a fault. -/
def Obligations.AeadEncSealsInPlace : Prop :=
  decode 0x00000030#32 = .ok .aeadEnc ∧
  (∀ s A P, s.aPtr.toNat + s.aLen.toNat ≤ s.cfg.dmemBytes → s.tPtr.toNat + s.tLen.toNat ≤ s.cfg.dmemBytes →
    s.regionsOverlap = false → s.readA = some A → s.readT = some P →
    ∃ t, exec .aeadEnc s = .next t ∧
      (∀ i : Fin 4, t.tag[i] =
        le32 (aeadTag s.keyBytes s.nonceBytes A (keyStreamXor s.keyBytes s.nonceBytes P)) (4 * i.val)) ∧
      t = { s with
            dmem := s.dmem.write s.tPtr.toNat (keyStreamXor s.keyBytes s.nonceBytes P)
            tag := t.tag, otk := .replicate 32 0#8, etag := .replicate 16 0#8, mac := .zeroized .idle
            ksgX := .replicate 16 0#32, ksgW := .replicate 16 0#32
            err := .ok, busy := false, done := true, pend := 0#32, delay := t.delay }) ∧
  (∀ s c, s.aeadCheck = some c → (c = .eRange ∨ c = .eOverlap) ∧ ∃ t, exec .aeadEnc s = .next t ∧
    t = { s with err := c, busy := false, done := true, pend := 0#32, delay := t.delay }) ∧
  ∀ s, s.aeadCheck = none → s.readA = none ∨ s.readT = none → exec .aeadEnc s = .fault .unwrittenCommandRead

/-- AEAD_DEC, the word 0x31 (42_aead.md R207): past its checks it compares the expected tag with TAG; if they are equal the
plaintext goes over the ciphertext, EQ = 1 and ERR = OK; if not, EQ = 0, ERR = E_AUTH and DMEM stays; it zeroizes either way
and never writes TAG. -/
def Obligations.AeadDecOpensIfAuthentic : Prop :=
  decode 0x00000031#32 = .ok .aeadDec ∧
  (∀ s A C, s.aPtr.toNat + s.aLen.toNat ≤ s.cfg.dmemBytes → s.tPtr.toNat + s.tLen.toNat ≤ s.cfg.dmemBytes →
    s.regionsOverlap = false → s.readA = some A → s.readT = some C →
    (aeadTag s.keyBytes s.nonceBytes A C = s.tagBytes → ∃ t, exec .aeadDec s = .next t ∧ t =
      { s with
        dmem := s.dmem.write s.tPtr.toNat (keyStreamXor s.keyBytes s.nonceBytes C)
        eq := true, otk := .replicate 32 0#8, etag := .replicate 16 0#8, mac := .zeroized .idle
        ksgX := .replicate 16 0#32, ksgW := .replicate 16 0#32
        err := .ok, busy := false, done := true, pend := 0#32, delay := t.delay }) ∧
    (aeadTag s.keyBytes s.nonceBytes A C ≠ s.tagBytes → ∃ t, exec .aeadDec s = .next t ∧ t =
      { s with
        eq := false, otk := .replicate 32 0#8, etag := .replicate 16 0#8, mac := .zeroized .idle
        ksgX := .replicate 16 0#32, ksgW := .replicate 16 0#32
        err := .eAuth, busy := false, done := true, pend := 0#32, delay := t.delay })) ∧
  (∀ s c, s.aeadCheck = some c → (c = .eRange ∨ c = .eOverlap) ∧ ∃ t, exec .aeadDec s = .next t ∧
    t = { s with err := c, busy := false, done := true, pend := 0#32, delay := t.delay }) ∧
  ∀ s, s.aeadCheck = none → s.readA = none ∨ s.readT = none → exec .aeadDec s = .fault .unwrittenCommandRead

/-- 42_aead.md R203 and R205: the AEAD tag is the tag, under the first 32 bytes of block 0, of the transcript AAD ‖ pad ‖
ciphertext ‖ pad ‖ lengths, and no partial block is ever formed. -/
def Obligations.AeadTagIsTagOfTranscript : Prop :=
  ∀ K N A C : List Byte,
    aeadTag K N A C = (macAbsorb (macInit ((chachaBlock K 0#32 N).take 32))
      (A ++ zeros (pad16 A.length) ++ C ++ zeros (pad16 C.length) ++ leBytes 8 A.length ++ leBytes 8 C.length)).finalTag ∧
    (A.length + pad16 A.length) % 16 = 0 ∧
    (absorbTranscript (macInit (oneTimeKey K N)) A C).bufLen.val = 0

/-- 42_aead.md R204: byte i of the output is byte i of the input xored with byte i mod 64 of the block of counter 1 + i/64; the
length is kept; and the function is its own inverse. -/
def Obligations.KeyStreamXorByByte : Prop :=
  ∀ K N D : List Byte,
    (keyStreamXor K N D).length = D.length ∧
    (∀ i, i < D.length → (keyStreamXor K N D).getD i 0#8 =
      D.getD i 0#8 ^^^ (chachaBlock K (BitVec.ofNat 32 (1 + i / 64)) N).getD (i % 64) 0#8) ∧
    keyStreamXor K N (keyStreamXor K N D) = D

/-- 42_aead.md R212: an AEAD_DEC after a successful AEAD_ENC succeeds and gives the plaintext back, with EQ = 1 and ERR = OK
(all of DMEM is then as it was); and two AEAD_ENC with the same key, nonce, AAD and plaintext give the same ciphertext and
tag. -/
def Obligations.EncryptThenDecryptRoundTrips : Prop :=
  (∀ s t, exec .aeadEnc s = .next t → t.err = .ok →
    ∃ u, exec .aeadDec t = .next u ∧ u.err = .ok ∧ u.eq = true ∧ u.readT = s.readT ∧ u.readA = s.readA ∧
      (s.dmem.wf → u.dmem = s.dmem)) ∧
  ∀ s s' t t', exec .aeadEnc s = .next t → t.err = .ok → exec .aeadEnc s' = .next t' → t'.err = .ok →
    s.keyBytes = s'.keyBytes → s.nonceBytes = s'.nonceBytes → s.readA = s'.readA → s.readT = s'.readT →
    t.tag = t'.tag ∧ t.readT = t'.readT

/-- The central security rule, 42_aead.md R209 with R211: AEAD_DEC changes DMEM only if the expected tag equals TAG, never
writes any register the HOST can read but STATUS, and leaves DMEM as it was whenever it does not end with OK. -/
def Obligations.DecryptReleasesOnlyAuthentic : Prop :=
  ∀ s t, exec .aeadDec s = .next t →
    (t.dmem ≠ s.dmem → t.err = .ok ∧ t.eq = true ∧
      ∃ A C, s.readA = some A ∧ s.readT = some C ∧ aeadTag s.keyBytes s.nonceBytes A C = s.tagBytes) ∧
    (t.err ≠ .ok → t.dmem = s.dmem) ∧
    t.ks = s.ks ∧ t.tag = s.tag ∧ t.tagx = s.tagx ∧ t.aPtr = s.aPtr ∧ t.aLen = s.aLen ∧ t.tPtr = s.tPtr ∧
    t.tLen = s.tLen ∧ t.nonce = s.nonce ∧ t.counter = s.counter ∧ t.ie = s.ie ∧ t.cfg = s.cfg ∧ t.readLog = s.readLog

/-- A changed tag always fails: where AEAD_DEC accepts one TAG, it rejects every other with E_AUTH, EQ = 0 and DMEM unchanged
(42_aead.md R207; 91_not_in_source.md N13). -/
def Obligations.ChangedTagAlwaysFails : Prop :=
  ∀ (s t : State) (T : Vector Word 4), exec .aeadDec s = .next t → t.err = .ok → T ≠ s.tag →
    ∃ u, exec .aeadDec { s with tag := T } = .next u ∧ u.err = .eAuth ∧ u.eq = false ∧ u.dmem = s.dmem ∧ u.tag = T

/-- 42_aead.md R208 and R210: an AEAD command past its checks zeroizes OTK, ETAG, the MAC state, X and W and leaves MAC_ST =
IDLE, so that a later MAC_UPDATE or MAC_FINAL fails with E_MAC_STATE; one that fails its checks leaves the session as it
was. -/
def Obligations.AeadEndsDirectSession : Prop :=
  ∀ i s t, i = .aeadEnc ∨ i = .aeadDec → exec i s = .next t →
    (t.err = .ok ∨ t.err = .eAuth →
      t.otk = .replicate 32 0#8 ∧ t.etag = .replicate 16 0#8 ∧ t.mac = .zeroized .idle ∧
      t.ksgX = .replicate 16 0#32 ∧ t.ksgW = .replicate 16 0#32 ∧ t.key = s.key ∧ t.nonce = s.nonce ∧
      (∃ u, exec .macUpdate t = .next u ∧ u.err = .eMacState) ∧ ∃ u, exec .macFinal t = .next u ∧ u.err = .eMacState) ∧
    (t.err = .eRange ∨ t.err = .eOverlap → t.mac = s.mac)

/-! ## What commands leave alone -/

/-- No command but CLEAR changes A_PTR, A_LEN, T_PTR, T_LEN, KEY, NONCE, COUNTER or TAGX (92_eei_decisions.md D28); only
MAC_FINAL, AEAD_ENC and CLEAR write TAG (10_state.md R40); only KS_BLOCK and CLEAR write KS (R42). -/
def Obligations.CommandsKeepOperandRegisters : Prop :=
  ∀ i s t, exec i s = .next t →
    (i ≠ .clear → t.aPtr = s.aPtr ∧ t.aLen = s.aLen ∧ t.tPtr = s.tPtr ∧ t.tLen = s.tLen ∧ t.key = s.key ∧
      t.nonce = s.nonce ∧ t.counter = s.counter ∧ t.tagx = s.tagx) ∧
    (i ≠ .clear → i ≠ .macFinal → i ≠ .aeadEnc → t.tag = s.tag) ∧
    (i ≠ .clear → i ≠ .ksBlock → t.ks = s.ks)

/-- 20_memory.md R71 and R82: only AEAD_ENC and AEAD_DEC change DMEM, and they change no byte outside their T region. -/
def Obligations.OnlyAeadWritesText : Prop :=
  (∀ i s t, exec i s = .next t → i ≠ .aeadEnc → i ≠ .aeadDec → ∀ a, t.dmem.byte? a = s.dmem.byte? a) ∧
  ∀ i s t, exec i s = .next t → i = .aeadEnc ∨ i = .aeadDec →
    ∀ a, a < s.textAddr ∨ s.textAddr + s.tLen.toNat ≤ a → t.dmem.byte? a = s.dmem.byte? a

/-- The lifecycle of the MAC by command (10_state.md R31): from which state to which. -/
def Obligations.MacLifecycle : Prop :=
  (∀ i s t, exec i s = .next t →
    t.mac.st =
      (match i with
        | .nop => s.mac.st
        | .ksBlock => s.mac.st
        | .macInit => .active
        | .macUpdate => s.mac.st
        | .macFinal => if s.mac.st = .active then .finalized else s.mac.st
        | .aeadEnc => if t.err = .ok then .idle else s.mac.st
        | .aeadDec => if t.err = .ok ∨ t.err = .eAuth then .idle else s.mac.st
        | .ctEq => s.mac.st
        | .clear => .idle)) ∧
  ∀ s : State, s.resetNow.mac = .zeroized .idle

/-- 10_state.md R30: CT_EQ writes EQ; AEAD_DEC writes it once past its checks; CLEAR and reset write 0; no other command, and
none that ends with a precondition error, changes it. -/
def Obligations.OnlyComparisonsWriteEq : Prop :=
  (∀ i s t, exec i s = .next t →
    (i ≠ .ctEq → i ≠ .aeadDec → i ≠ .clear → t.eq = s.eq) ∧
    (t.err ∈ [Code.eMacState, .eRange, .eOverlap] → t.eq = s.eq) ∧
    (i = .ctEq → (t.eq = true ↔ s.tagBytes = s.tagxBytes)) ∧
    (i = .aeadDec → t.err = .ok → t.eq = true) ∧
    (i = .aeadDec → t.err = .eAuth → t.eq = false) ∧
    (i = .clear → t.eq = false)) ∧
  (∀ s t, execIllegal s = .next t → t.eq = s.eq) ∧ ∀ s : State, s.resetNow.eq = false

/-! ## The host port -/

/-- 70_reset_and_hazards.md R326: while BUSY = 1 a read of a locked offset returns 0 and sets HAZ (an unwritten DMEM word is no
fault), a write of one is dropped and sets HAZ, and the command in progress is not affected; while BUSY = 0 nothing is
locked. (Nothing is said of `delay`, the model's own schedule, log 3.) -/
def Obligations.LockedWhileBusy : Prop :=
  (∀ (s : State) (off : Word) (rest : List HostInput), s.cfg.WF → s.busy = true → s.seqTurn = false →
    off.toNat % 4 = 0 →
    off.toNat = 0x00C ∨ (0x010 ≤ off.toNat ∧ off.toNat ≤ 0x06C) ∨ (0x080 ≤ off.toNat ∧ off.toNat ≤ 0x0BC) ∨
      (0x1000 ≤ off.toNat ∧ off.toNat < 0x1000 + s.cfg.dmemBytes) →
    (s.inbox = .bus (.read off 32) :: rest → ∃ t, step s = .next t ∧
      t = { s with inbox := rest, haz := true, readLog := (off, 0#32) :: s.readLog, delay := t.delay }) ∧
    ∀ v, s.inbox = .bus (.write off 32 v) :: rest → ∃ t, step s = .next t ∧
      t = { s with inbox := rest, haz := true, delay := t.delay }) ∧
  ∀ (s : State) (l : Loc), s.busy = false → s.isLocked l = false

/-- ID, CTRL and STATUS act as usual whether or not a command runs, and none of them sets HAZ (70_reset_and_hazards.md R327,
10_state.md R25 to R27): ID reads ID_VALUE and ignores writes, CTRL reads IE and takes bit 0, STATUS reads its fields and clears DONE and HAZ by
writing 1 to bits 1 and 6. (`delay` counts down with every input, the model's own schedule, log 3.) -/
def Obligations.ControlRegistersNeverLock : Prop :=
  ∀ (s : State) (rest : List HostInput) (v : Word), s.cfg.WF → s.seqTurn = false →
    (s.inbox = .bus (.read 0x000#32 32) :: rest → step s = .next
      { s with inbox := rest, delay := s.delay - 1, readLog := (0x000#32, s.cfg.idValue) :: s.readLog }) ∧
    (s.inbox = .bus (.write 0x000#32 32 v) :: rest → step s = .next { s with inbox := rest, delay := s.delay - 1 }) ∧
    (s.inbox = .bus (.read 0x004#32 32) :: rest → step s = .next
      { s with inbox := rest, delay := s.delay - 1
               readLog := (0x004#32, if s.ie then 1#32 else 0#32) :: s.readLog }) ∧
    (s.inbox = .bus (.write 0x004#32 32 v) :: rest → step s = .next
      { s with inbox := rest, delay := s.delay - 1, ie := v.getLsbD 0 }) ∧
    (s.inbox = .bus (.read 0x008#32 32) :: rest → step s = .next
      { s with inbox := rest, delay := s.delay - 1, readLog := (0x008#32, s.statusWord) :: s.readLog }) ∧
    (s.inbox = .bus (.write 0x008#32 32 v) :: rest → step s = .next
      { s with inbox := rest, delay := s.delay - 1, done := s.done && !v.getLsbD 1, haz := s.haz && !v.getLsbD 6 })

/-- 20_memory.md R68: a reserved offset and an offset at or above the end of the DMEM window read 0 and ignore writes, with no
bus error and no HAZ, whether or not a command runs. (Nothing is said of `delay`, the model's own schedule, log 3.) -/
def Obligations.ReservedSpaceReadsZero : Prop :=
  ∀ (s : State) (off : Word) (rest : List HostInput) (v : Word), s.cfg.WF → s.seqTurn = false → off.toNat % 4 = 0 →
    off.toNat < 2 ^ s.cfg.addrW →
    (0x070 ≤ off.toNat ∧ off.toNat ≤ 0x07C) ∨ (0x0C0 ≤ off.toNat ∧ off.toNat ≤ 0xFFC) ∨
      0x1000 + s.cfg.dmemBytes ≤ off.toNat →
    (s.inbox = .bus (.read off 32) :: rest → ∃ t, step s = .next t ∧
      t = { s with inbox := rest, readLog := (off, 0#32) :: s.readLog, delay := t.delay }) ∧
    (s.inbox = .bus (.write off 32 v) :: rest → ∃ t, step s = .next t ∧ t = { s with inbox := rest, delay := t.delay })

/-- The access types of 10_state.md R24 while BUSY = 0, register by register of R23: an RW register reads back what was written
(operand registers 0x010 to 0x01C and 0x040 to 0x06C); KEYi takes the write and reads 0; KSi ignores the write and reads its
value. Each register holds its word at its own offset. A read of CMD returns 0 and changes nothing (R34). -/
def Obligations.OperandRegistersAtTheirOffsets : Prop :=
  ∀ (s : State) (v : Word), s.cfg.WF → s.busy = false →
    (∀ off : Word, off.toNat % 4 = 0 →
      (0x010 ≤ off.toNat ∧ off.toNat ≤ 0x01C) ∨ (0x040 ≤ off.toNat ∧ off.toNat ≤ 0x06C) →
      ∃ t, s.transact (.write off 32 v) = .next t ∧
        t.transact (.read off 32) = .next { t with readLog := (off, v) :: t.readLog }) ∧
    s.transact (.read 0x00C#32 32) = .next { s with readLog := (0x00C#32, 0#32) :: s.readLog } ∧
    s.transact (.write 0x010#32 32 v) = .next { s with aPtr := v } ∧
    s.transact (.write 0x014#32 32 v) = .next { s with aLen := v } ∧
    s.transact (.write 0x018#32 32 v) = .next { s with tPtr := v } ∧
    s.transact (.write 0x01C#32 32 v) = .next { s with tLen := v } ∧
    (∀ i : Fin 8, s.transact (.write (BitVec.ofNat 32 (0x020 + 4 * i.val)) 32 v) = .next { s with key := s.key.set i v } ∧
      s.transact (.read (BitVec.ofNat 32 (0x020 + 4 * i.val)) 32) = .next
        { s with readLog := (BitVec.ofNat 32 (0x020 + 4 * i.val), 0#32) :: s.readLog }) ∧
    (∀ i : Fin 3, s.transact (.write (BitVec.ofNat 32 (0x040 + 4 * i.val)) 32 v) = .next
      { s with nonce := s.nonce.set i v }) ∧
    s.transact (.write 0x04C#32 32 v) = .next { s with counter := v } ∧
    (∀ i : Fin 4, s.transact (.write (BitVec.ofNat 32 (0x050 + 4 * i.val)) 32 v) = .next
      { s with tag := s.tag.set i v }) ∧
    (∀ i : Fin 4, s.transact (.write (BitVec.ofNat 32 (0x060 + 4 * i.val)) 32 v) = .next
      { s with tagx := s.tagx.set i v }) ∧
    ∀ i : Fin 16, s.transact (.write (BitVec.ofNat 32 (0x080 + 4 * i.val)) 32 v) = .next s ∧
      s.transact (.read (BitVec.ofNat 32 (0x080 + 4 * i.val)) 32) = .next
        { s with readLog := (BitVec.ofNat 32 (0x080 + 4 * i.val), s.ks[i]) :: s.readLog }

/-- 20_memory.md R67: host address 0x1000 + 4k is DMEM bytes 4k .. 4k + 3, byte 4k + j being bits 8j+7:8j of the word. A write
sets those four bytes and no other; a read returns their little-endian word, and is a fault if one has no value. -/
def Obligations.DmemWindowIsLittleEndian : Prop :=
  ∀ (s : State) (k : Nat) (off : Word), s.cfg.WF → s.busy = false → 4 * k < s.cfg.dmemBytes → off.toNat = 0x1000 + 4 * k →
    (∀ v, ∃ t, s.transact (.write off 32 v) = .next t ∧ t = { s with dmem := t.dmem } ∧
      (∀ j : Fin 4, t.dmem.byte? (4 * k + j.val) = some (v.extractLsb' (8 * j.val) 8)) ∧
      ∀ a, a < 4 * k ∨ 4 * k + 4 ≤ a → t.dmem.byte? a = s.dmem.byte? a) ∧
    (∀ b : Fin 4 → Byte, (∀ j : Fin 4, s.dmem.byte? (4 * k + j.val) = some (b j)) →
      ∃ w : Word, s.transact (.read off 32) = .next { s with readLog := (off, w) :: s.readLog } ∧
        w.toNat = ∑ j : Fin 4, (b j).toNat * 2 ^ (8 * j.val)) ∧
    ((∃ j : Fin 4, s.dmem.byte? (4 * k + j.val) = none) → s.transact (.read off 32) = .fault .unwrittenHostRead)

/-- 10_state.md R49: IRQ is CTRL.IE & STATUS.DONE, and 0 after reset. With it, where the fields of STATUS stand in the word a
read returns, and that its other bits are 0 (R27). -/
def Obligations.StatusFieldsAndIrq : Prop :=
  ∀ s : State,
    s.statusWord.getLsbD 0 = s.busy ∧ s.statusWord.getLsbD 1 = s.done ∧ s.statusWord.getLsbD 2 = s.eq ∧
    s.statusWord.extractLsb' 4 2 = s.mac.st.bits ∧ s.statusWord.getLsbD 6 = s.haz ∧
    s.statusWord.extractLsb' 8 4 = s.err.bits ∧
    s.statusWord.getLsbD 3 = false ∧ s.statusWord.getLsbD 7 = false ∧ s.statusWord.extractLsb' 12 20 = 0#20 ∧
    (MacSt.idle.bits = 0#2 ∧ MacSt.active.bits = 1#2 ∧ MacSt.finalized.bits = 2#2) ∧
    (s.irq = true ↔ s.ie = true ∧ s.done = true) ∧ ∀ c : Config, (State.resetWith c).irq = false

/-- 60_exceptions.md R286: a transaction at an address that is not a multiple of 4, or whose size is not 32 bits, is a fault,
read or write, in every state in which the HOST moves. -/
def Obligations.MisalignedTransactionsFault : Prop :=
  ∀ (s : State) (x : Transaction) (rest : List HostInput), s.seqTurn = false → s.inbox = .bus x :: rest →
    x.off.toNat % 4 ≠ 0 ∨ x.size ≠ 32 → step s = .fault .busError

/-- A command that reads a byte with no value faults, once its checks have passed (10_state.md R50, 20_memory.md R70); and an
aligned 32-bit transaction outside the host space faults: the model's choice (log 10). -/
def Obligations.UnwrittenReadsAndOutsideOffsetsFault : Prop :=
  (∀ (s : State) (x : Transaction) (rest : List HostInput), s.seqTurn = false → s.inbox = .bus x :: rest →
    x.off.toNat % 4 = 0 → x.size = 32 → 2 ^ s.cfg.addrW ≤ x.off.toNat → step s = .fault .addressOutsideSpace) ∧
  (∀ s a, s.mac.st = .active → s.tPtr.toNat + s.tLen.toNat ≤ s.cfg.dmemBytes →
    s.tPtr.toNat ≤ a → a < s.tPtr.toNat + s.tLen.toNat → s.dmem.byte? a = none →
    exec .macUpdate s = .fault .unwrittenCommandRead) ∧
  ∀ i s a, i = .aeadEnc ∨ i = .aeadDec → s.aeadCheck = none → s.dmem.byte? a = none →
    (s.tPtr.toNat ≤ a ∧ a < s.tPtr.toNat + s.tLen.toNat) ∨ (s.aPtr.toNat ≤ a ∧ a < s.aPtr.toNat + s.aLen.toNat) →
    exec i s = .fault .unwrittenCommandRead

/-- What the pseudo-instructions of 30_encoding.md R98 put on the bus. WB writes one word for every four bytes, rounded up, at
rising offsets, and a byte past the last is 0x00; KEY, NONCE, TAG, TAGX and MEM are WB at their offsets, so the first four
write the LE32 words of their bytes; RB reads one word for every four bytes, rounded up, and binds the first n bytes of the
values read; CMD, ACK and ACKALL are one write each; RUN is CMD then WAIT. WAIT is a read of STATUS that stays in front of the
inputs while the value read has bit 0 set: the poll is the model's form of "repeat", log 4. Offsets wrap at 2^32: log 19. -/
def Obligations.HostProgramLinesExpand : Prop :=
  (∀ (off : Word) (bs : List Byte), expandLine (.wb off bs) =
    (List.range ((bs.length + 3) / 4)).map fun k => .bus (.write (off + BitVec.ofNat 32 (4 * k)) 32
      (le32 [bs.getD (4 * k) 0#8, bs.getD (4 * k + 1) 0#8, bs.getD (4 * k + 2) 0#8, bs.getD (4 * k + 3) 0#8] 0))) ∧
  (∀ bs : List Byte, expandLine (.key bs) = expandLine (.wb 0x020#32 bs) ∧
    expandLine (.nonce bs) = expandLine (.wb 0x040#32 bs) ∧ expandLine (.tag bs) = expandLine (.wb 0x050#32 bs) ∧
    expandLine (.tagx bs) = expandLine (.wb 0x060#32 bs) ∧
    ∀ a : Word, expandLine (.mem a bs) = expandLine (.wb (0x1000#32 + a) bs)) ∧
  (∀ (off : Word) (n : Nat) (name : String),
    expandLine (.rb off n name) =
      (List.range ((n + 3) / 4)).map (fun k => .bus (.read (off + BitVec.ofNat 32 (4 * k)) 32)) ∧
    ∀ values : List Word, values.length = (n + 3) / 4 → (boundBytes n values).length = n ∧
      ∀ i, i < n → (boundBytes n values).getD i 0#8 = (values.getD (i / 4) 0#32).extractLsb' (8 * (i % 4)) 8) ∧
  expandLine .ack = [.bus (.write 0x008#32 32 0x00000002#32)] ∧
  expandLine .ackAll = [.bus (.write 0x008#32 32 0x00000042#32)] ∧
  (∀ bs : List Byte, bs.length = 32 → expandLine (.key bs) =
    (List.range 8).map fun i => .bus (.write (BitVec.ofNat 32 (0x020 + 4 * i)) 32 (le32 bs (4 * i)))) ∧
  (∀ bs : List Byte, bs.length = 12 → expandLine (.nonce bs) =
    (List.range 3).map fun i => .bus (.write (BitVec.ofNat 32 (0x040 + 4 * i)) 32 (le32 bs (4 * i)))) ∧
  (∀ bs : List Byte, bs.length = 16 → expandLine (.tag bs) =
    (List.range 4).map fun i => .bus (.write (BitVec.ofNat 32 (0x050 + 4 * i)) 32 (le32 bs (4 * i)))) ∧
  (∀ bs : List Byte, bs.length = 16 → expandLine (.tagx bs) =
    (List.range 4).map fun i => .bus (.write (BitVec.ofNat 32 (0x060 + 4 * i)) 32 (le32 bs (4 * i)))) ∧
  (∀ i, expandLine (.run i) = expandLine (.cmd i) ++ expandLine .wait ∧
    expandLine (.cmd i) = [.bus (.write 0x00C#32 32 (encode i))]) ∧
  ∀ (s : State) (rest : List HostInput), s.seqTurn = false → s.inbox = .wait :: rest →
    (s.busy = true → step s = .next
      { s with delay := s.delay - 1, readLog := (0x008#32, s.statusWord) :: s.readLog }) ∧
    (s.busy = false → step s = .next
      { s with inbox := rest, delay := s.delay - 1, readLog := (0x008#32, s.statusWord) :: s.readLog })

/-! ## DMEM -/

/-- 20_memory.md R70 and R71: MemRead gives the n bytes of its region, or none if one has no value; MemWrite sets the bytes of
its region and no other; and every write keeps the canonical form. -/
def Obligations.MemReadAndMemWrite : Prop :=
  (∀ (m : Memory) (a n : Nat) (B : List Byte),
    m.read a n = some B ↔ B.length = n ∧ ∀ i, i < n → m.byte? (a + i) = some (B.getD i 0#8)) ∧
  (∀ (m : Memory) (a n : Nat), m.read a n = none ↔ ∃ i, i < n ∧ m.byte? (a + i) = none) ∧
  (∀ (m : Memory) (a : Nat) (B : List Byte) (x : Nat), (m.write a B).byte? x =
    if a ≤ x ∧ x < a + B.length then some (B.getD (x - a) 0#8) else m.byte? x) ∧
  ∀ (m : Memory) (a : Nat) (B : List Byte), m.wf → (m.write a B).wf

/-! ## Reset -/

/-- 70_reset_and_hazards.md R321, R322 and R323: what every register, the hidden state and DMEM hold after reset. -/
def Obligations.ResetValues : Prop :=
  ∀ (c : Config) (s : State), s = State.resetWith c →
    s.cfg.idValue = c.idValue ∧ s.ctrlWord = 0x00000000#32 ∧ s.statusWord = 0x00000000#32 ∧
    s.aPtr = 0#32 ∧ s.aLen = 0#32 ∧ s.tPtr = 0#32 ∧ s.tLen = 0#32 ∧
    (∀ i : Fin 8, s.key[i] = 0#32) ∧ (∀ i : Fin 3, s.nonce[i] = 0#32) ∧ s.counter = 0#32 ∧
    (∀ i : Fin 4, s.tag[i] = 0#32) ∧ (∀ i : Fin 4, s.tagx[i] = 0#32) ∧ (∀ i : Fin 16, s.ks[i] = 0#32) ∧
    s.mac.acc.val = 0 ∧ (∀ i : Fin 5, s.mac.rl[i] = 0#32) ∧ (∀ i : Fin 4, s.mac.sp[i] = 0#32) ∧
    (∀ i : Fin 15, s.mac.buf[i] = 0#8) ∧ s.mac.bufLen.val = 0 ∧ s.mac.st = .idle ∧
    s.pend = 0#32 ∧ (∀ i : Fin 32, s.otk[i] = 0#8) ∧ (∀ i : Fin 16, s.etag[i] = 0#8) ∧
    (∀ i : Fin 16, s.ksgX[i] = 0#32) ∧ (∀ i : Fin 16, s.ksgW[i] = 0#32) ∧
    (∀ a, s.dmem.byte? a = none) ∧ s.irq = false

/-- 70_reset_and_hazards.md R320 and R333: the reset input acts at once on every state, a command in progress included, and
puts all of it at its reset value; only the parameters and the model's account of the outside world stay (log 13). -/
def Obligations.ResetInputResetsEverything : Prop :=
  ∀ (s : State) (rest : List HostInput), s.seqTurn = false → s.inbox = .reset :: rest →
    ∃ t, step s = .next t ∧ t.irq = false ∧
      t = { State.resetWith s.cfg with inbox := rest, lats := s.lats, readLog := s.readLog, fresh := s.fresh }

/-! ## Whole-machine rules -/

/-- The invariant holds right after reset, for every parameter choice that meets its constraints. -/
def Obligations.InvariantHoldsAtReset : Prop :=
  (∀ c : Config, c.WF → CoreInv (State.resetWith c)) ∧ CoreInv State.reset

/-- Every step keeps the invariant: DMEM in canonical form and within DMEM_BYTES, BUSY and DONE never both 1, no PEND without a
command, OTK and ETAG zero between steps, a MAC state that is zero unless a session is open, clamped limbs and a zero buffer
tail. -/
def Obligations.EveryStepKeepsInvariant : Prop := ∀ s t, CoreInv s → step s = .next t → CoreInv t

/-- The HOST never reads a secret: two states that differ only in KEY, the MAC state (but for MAC_ST), OTK, ETAG, X and W get,
from any input, outcomes that differ only there. No input can carry any of it to a place the HOST reads (10_state.md R37,
R48, 60_exceptions.md R296). -/
def Obligations.HostNeverReadsSecrets : Prop :=
  ∀ s t : State, s.hideSecrets = t.hideSecrets → s.seqTurn = false →
    SameView State.hideSecrets (step s) (step t)

/-- While a command runs the HOST learns nothing of DMEM, of any operand or output register, of the command or of any secret:
two busy states that differ only in these get, from any input, outcomes that differ only there (70_reset_and_hazards.md R326,
42_aead.md R209). -/
def Obligations.BusyHostLearnsNothing : Prop :=
  ∀ s t : State, s.hideLocked = t.hideLocked → s.busy = true → s.seqTurn = false →
    SameView State.hideLocked (step s) (step t)

/-- Who moves next, and when commands complete, does not depend on any register's contents or on DMEM: two states with the same
BUSY, the same inputs and the same schedule still have them after a step (70_reset_and_hazards.md R331; the schedule is the
model's form of LAT, log 3, log 17). -/
def Obligations.ScheduleIgnoresData : Prop :=
  ∀ s t s' t' : State, s.busy = t.busy → s.delay = t.delay → s.lats = t.lats → s.inbox = t.inbox → s.cfg = t.cfg →
    step s = .next s' → step t = .next t' →
    s'.busy = t'.busy ∧ s'.delay = t'.delay ∧ s'.lats = t'.lats ∧ s'.inbox = t'.inbox ∧ s'.cfg = t'.cfg
end

