-- ==== Sys2Proof/Laws/Bytes.lean ====
section
/-! SUPPORT. Laws of byte strings: lengths, and that little-endian numbers, bytes and words turn into one another without loss. -/

namespace Sys2Proof.Machine

@[simp] theorem leBytes_length (n v : Nat) : (leBytes n v).length = n := by
  induction n generalizing v with
  | zero => rfl
  | succ n ih => simp [leBytes, ih]

@[simp] theorem wordBytes_length (w : Word) : (wordBytes w).length = 4 := leBytes_length 4 _

@[simp] theorem wordsBytes_length (ws : List Word) : (wordsBytes ws).length = 4 * ws.length := by
  induction ws with
  | nil => rfl
  | cons w ws ih =>
    simp only [wordsBytes, List.flatMap_cons, List.length_append, wordBytes_length, List.length_cons] at ih ⊢
    omega

@[simp] theorem zeros_length (n : Nat) : (zeros n).length = n := List.length_replicate ..

@[simp] theorem xorBytes_length (a b : List Byte) : (xorBytes a b).length = min a.length b.length :=
  List.length_zipWith ..

@[simp] theorem keyBytes_length (s : State) : s.keyBytes.length = 32 := by simp [State.keyBytes]
@[simp] theorem nonceBytes_length (s : State) : s.nonceBytes.length = 12 := by simp [State.nonceBytes]
@[simp] theorem tagBytes_length (s : State) : s.tagBytes.length = 16 := by simp [State.tagBytes]
@[simp] theorem tagxBytes_length (s : State) : s.tagxBytes.length = 16 := by simp [State.tagxBytes]
@[simp] theorem ksBytes_length (s : State) : s.ksBytes.length = 64 := by simp [State.ksBytes]

theorem leNat_lt (B : List Byte) : leNat B < 256 ^ B.length := by
  induction B with
  | nil => simp [leNat]
  | cons b bs ih =>
    have hb := b.isLt
    simp only [leNat, List.length_cons, Nat.pow_succ]
    omega

theorem leNat_append (A B : List Byte) : leNat (A ++ B) = leNat A + 256 ^ A.length * leNat B := by
  induction A with
  | nil => simp [leNat]
  | cons a A ih =>
    simp only [List.cons_append, leNat, ih, List.length_cons, Nat.pow_succ]
    ring

@[simp] theorem leNat_zeros (n : Nat) : leNat (zeros n) = 0 := by
  induction n with
  | zero => rfl
  | succ n ih => simpa [zeros, List.replicate_succ, leNat] using ih

/-- `LE(LEbytes_n(v)) = v mod 2^(8n)` (00_scope.md R12). -/
theorem leNat_leBytes (n v : Nat) : leNat (leBytes n v) = v % 256 ^ n := by
  induction n generalizing v with
  | zero => simp [leBytes, leNat, Nat.mod_one]
  | succ n ih =>
    simp only [leBytes, leNat, ih, BitVec.toNat_ofNat]
    have h := Nat.mod_mul (x := v) (a := 256) (b := 256 ^ n)
    rw [show 256 ^ (n + 1) = 256 * 256 ^ n by ring, h]

/-- A byte string is the serialisation of its little-endian number. -/
theorem leBytes_leNat (B : List Byte) : leBytes B.length (leNat B) = B := by
  induction B with
  | nil => rfl
  | cons b bs ih =>
    have hb := b.isLt
    have h1 : (b.toNat + 256 * leNat bs) / 256 = leNat bs := by omega
    have h2 : BitVec.ofNat 8 (b.toNat + 256 * leNat bs) = b := by
      apply BitVec.eq_of_toNat_eq
      simp only [BitVec.toNat_ofNat]
      omega
    simp only [List.length_cons, leBytes, leNat, h1, h2, ih]

/-- Reading back the word whose bytes stand first. -/
theorem le32_wordBytes_append (w : Word) (B : List Byte) : le32 (wordBytes w ++ B) 0 = w := by
  have h : ((wordBytes w ++ B).drop 0).take 4 = wordBytes w := by simp
  apply BitVec.eq_of_toNat_eq
  rw [le32, h, wordBytes, leNat_leBytes, BitVec.toNat_ofNat]
  have := w.isLt
  omega

theorem le32_drop (B : List Byte) (n o : Nat) : le32 (B.drop n) o = le32 B (n + o) := by
  simp only [le32, List.drop_drop]

/-- `KSi = LE32(B, 4i)` and its like: word i of the bytes of registers is register i (20_memory.md R62). -/
theorem le32_wordsBytes (ws : List Word) (i : Nat) (h : i < ws.length) : le32 (wordsBytes ws) (4 * i) = ws[i] := by
  induction ws generalizing i with
  | nil => simp at h
  | cons w ws ih =>
    have hw : wordsBytes (w :: ws) = wordBytes w ++ wordsBytes ws := rfl
    cases i with
    | zero => simpa [hw] using le32_wordBytes_append w (wordsBytes ws)
    | succ i =>
      have h4 : 4 * (i + 1) = 4 + 4 * i := by omega
      rw [h4, ← le32_drop, hw, List.drop_left' (wordBytes_length w)]
      simpa using ih i (by simpa using h)

/-- Registers rebuilt from the bytes they hold. -/
theorem bytesWords_wordsBytes {n : Nat} (v : Vector Word n) : bytesWords n (wordsBytes v.toList) = v := by
  apply Vector.ext
  intro i hi
  simp only [bytesWords, Vector.getElem_ofFn]
  rw [le32_wordsBytes _ _ (by simpa using hi)]
  simp

/-- Registers that hold the same byte string are equal. -/
theorem wordsBytes_inj {n : Nat} {v w : Vector Word n} : wordsBytes v.toList = wordsBytes w.toList ↔ v = w := by
  constructor
  · intro h
    rw [← bytesWords_wordsBytes v, h, bytesWords_wordsBytes]
  · rintro rfl
    rfl

theorem wordBytes_le32 (B : List Byte) (h : B.length = 4) : wordBytes (le32 B 0) = B := by
  have hl := leNat_lt B
  have hb := leBytes_leNat B
  rw [h] at hl hb
  have ht : B.take 4 = B := List.take_of_length_le (by omega)
  rw [wordBytes, le32, List.drop_zero, ht, BitVec.toNat_ofNat, Nat.mod_eq_of_lt (by simpa using hl), hb]

/-- The bytes of registers filled from a byte string of their size are that byte string (20_memory.md R62). -/
theorem wordsBytes_bytesWords (n : Nat) (B : List Byte) (h : B.length = 4 * n) :
    wordsBytes (bytesWords n B).toList = B := by
  induction n generalizing B with
  | zero =>
    obtain rfl : B = [] := List.length_eq_zero_iff.mp (by simpa using h)
    rfl
  | succ n ih =>
    have hc : (bytesWords (n + 1) B).toList = le32 B 0 :: (bytesWords n (B.drop 4)).toList := by
      apply List.ext_getElem
      · simp
      · intro i h1 h2
        cases i with
        | zero => simp [bytesWords]
        | succ i => simp [bytesWords, le32_drop, Nat.mul_add, Nat.add_comm]
    have hd : (B.drop 4).length = 4 * n := by simp; omega
    have ht : (B.take 4).length = 4 := by simp; omega
    have hw : wordBytes (le32 B 0) = B.take 4 := by
      have := wordBytes_le32 (B.take 4) ht
      rwa [le32, List.drop_zero, List.take_take, Nat.min_self] at this
    have hcons (w : Word) (ws : List Word) : wordsBytes (w :: ws) = wordBytes w ++ wordsBytes ws := rfl
    rw [hc, hcons, hw, ih _ hd, List.take_append_drop]

/-- A byte string of the store's size is kept whole. -/
theorem bytesStore_toList (n : Nat) (B : List Byte) (h : B.length = n) : (bytesStore n B).toList = B := by
  apply List.ext_getElem
  · simp [h]
  · intro i h1 h2
    simp [bytesStore, List.getD_eq_getElem?_getD, List.getElem?_eq_getElem h2]

/-- A store shorter than its size holds the byte string, then zeros. -/
theorem bytesStore_take (n : Nat) (B : List Byte) (h : B.length ≤ n) : (bytesStore n B).toList.take B.length = B := by
  apply List.ext_getElem
  · simp [h]
  · intro i h1 h2
    simp [bytesStore, List.getD_eq_getElem?_getD, List.getElem?_eq_getElem h2]

theorem xorBytes_cancel (a k : List Byte) (h : a.length ≤ k.length) : xorBytes (xorBytes a k) k = a := by
  induction a generalizing k with
  | nil => simp [xorBytes]
  | cons x a ih =>
    cases k with
    | nil => simp at h
    | cons y k =>
      simp only [xorBytes, List.zipWith_cons_cons] at ih ⊢
      rw [ih k (by simpa using h), BitVec.xor_assoc, BitVec.xor_self, BitVec.xor_zero]

end Sys2Proof.Machine
end

