-- ==== Sys2Proof/Laws/Crypto.lean ====
section
/-! SUPPORT. Laws of the functions the commands compute: lengths, and how absorbing a message splits into blocks. -/

namespace Sys2Proof.Machine

@[simp] theorem chachaBlock_length (K : List Byte) (ctr : Word) (N : List Byte) : (chachaBlock K ctr N).length = 64 := by
  simp [chachaBlock]

@[simp] theorem oneTimeKey_length (K N : List Byte) : (oneTimeKey K N).length = 32 := by simp [oneTimeKey]

@[simp] theorem finalTag_length (m : MacState) : m.finalTag.length = 16 := leBytes_length 16 _

@[simp] theorem aeadTag_length (K N A C : List Byte) : (aeadTag K N A C).length = 16 := finalTag_length _

theorem keyStreamChunks_length (K N : List Byte) (n j : Nat) (D : List Byte) (h : D.length ≤ 64 * n) :
    (keyStreamChunks K N n j D).length = D.length := by
  induction n generalizing j D with
  | zero => simp [keyStreamChunks]; omega
  | succ n ih =>
    rw [keyStreamChunks, List.length_append, ih _ _ (by simp; omega)]
    simp
    omega

/-- The ciphertext is as long as the plaintext (42_aead.md R204). -/
@[simp] theorem keyStreamXor_length (K N D : List Byte) : (keyStreamXor K N D).length = D.length :=
  keyStreamChunks_length K N _ 0 D (by omega)

/-- OTK holds the whole one-time key. -/
@[simp] theorem store_oneTimeKey (K N : List Byte) : (bytesStore 32 (oneTimeKey K N)).toList = oneTimeKey K N :=
  bytesStore_toList 32 _ (oneTimeKey_length _ _)

/-- ETAG holds the whole expected tag. -/
@[simp] theorem store_finalTag (m : MacState) : (bytesStore 16 m.finalTag).toList = m.finalTag :=
  bytesStore_toList 16 _ (finalTag_length _)

/-! `macAbsorb`. -/

@[simp] theorem macAbsorb_rl (m : MacState) (D : List Byte) : (macAbsorb m D).rl = m.rl := rfl
@[simp] theorem macAbsorb_sp (m : MacState) (D : List Byte) : (macAbsorb m D).sp = m.sp := rfl
@[simp] theorem macAbsorb_st (m : MacState) (D : List Byte) : (macAbsorb m D).st = m.st := rfl

@[simp] theorem macAbsorb_rv (m : MacState) (D : List Byte) : (macAbsorb m D).rv = m.rv := by
  simp only [MacState.rv, macAbsorb_rl]

@[simp] theorem macAbsorb_sv (m : MacState) (D : List Byte) : (macAbsorb m D).sv = m.sv := by
  simp only [MacState.sv, macAbsorb_sp]

@[simp] theorem pending_length (m : MacState) : m.pending.length = m.bufLen.val := by
  have := m.bufLen.isLt
  simp [MacState.pending]
  omega

theorem macAbsorb_bufLen (m : MacState) (D : List Byte) :
    (macAbsorb m D).bufLen.val = (m.bufLen.val + D.length) % 16 := by
  simp only [macAbsorb, List.length_append, pending_length]
  omega

theorem macAbsorb_acc (m : MacState) (D : List Byte) :
    (macAbsorb m D).acc = absorbBlocks m.rv ((m.pending ++ D).length / 16) m.acc (m.pending ++ D) := rfl

theorem macAbsorb_buf (m : MacState) (D : List Byte) :
    (macAbsorb m D).buf = bytesStore 15 ((m.pending ++ D).drop (16 * ((m.pending ++ D).length / 16))) := rfl

/-- What MacAbsorb leaves in BUF is the bytes past the last complete block (41_mac.md R157). -/
theorem macAbsorb_pending (m : MacState) (D : List Byte) :
    (macAbsorb m D).pending = (m.pending ++ D).drop (16 * ((m.pending ++ D).length / 16)) := by
  have hl : ((m.pending ++ D).drop (16 * ((m.pending ++ D).length / 16))).length = (macAbsorb m D).bufLen.val := by
    rw [macAbsorb_bufLen, List.length_drop, List.length_append, pending_length]
    omega
  have hb := (macAbsorb m D).bufLen.isLt
  rw [MacState.pending, macAbsorb_buf, ← hl, bytesStore_take 15 _ (by omega)]

/-- Two MAC states that agree on ACC, RL, SP, BUF, BUFLEN and MAC_ST are equal. -/
theorem macState_ext {m n : MacState} (h1 : m.acc = n.acc) (h2 : m.rl = n.rl) (h3 : m.sp = n.sp) (h4 : m.buf = n.buf)
    (h5 : m.bufLen.val = n.bufLen.val) (h6 : m.st = n.st) : m = n := by
  obtain ⟨a, b, c, d, e, f⟩ := m
  obtain ⟨a', b', c', d', e', f'⟩ := n
  obtain rfl : e = e' := Fin.ext h5
  simp only at h1 h2 h3 h4 h6
  simp only [h1, h2, h3, h4, h6]

/-- Absorbing n + k blocks is absorbing n, then k from where they end. -/
theorem absorbBlocks_add (rv n k : Nat) (acc : Fin p) (S : List Byte) :
    absorbBlocks rv (n + k) acc S = absorbBlocks rv k (absorbBlocks rv n acc S) (S.drop (16 * n)) := by
  induction n generalizing acc S with
  | zero => simp [absorbBlocks]
  | succ n ih =>
    rw [Nat.succ_add, absorbBlocks, absorbBlocks, ih, List.drop_drop]
    congr 2
    omega

/-- Absorbing n blocks looks at the first 16n bytes only. -/
theorem absorbBlocks_append (rv n : Nat) (acc : Fin p) (S T : List Byte) (h : 16 * n ≤ S.length) :
    absorbBlocks rv n acc (S ++ T) = absorbBlocks rv n acc S := by
  induction n generalizing acc S with
  | zero => rfl
  | succ n ih =>
    rw [absorbBlocks, absorbBlocks, List.take_append_of_le_length (by omega), List.drop_append_of_le_length (by omega),
      ih _ _ (by simp; omega)]

end Sys2Proof.Machine
end

