-- ==== Sys2Proof/Laws/State.lean ====
section
/-! SUPPORT. The fields of a state after each update of the model, one lemma per field, so that no proof unfolds a record
update. -/

namespace Sys2Proof.Machine

variable (s : State)

@[simp] theorem raiseCmdError_eq_complete (c : Code) : s.raiseCmdError c = s.complete c := rfl

@[simp] theorem zeroized_st (st : MacSt) : (MacState.zeroized st).st = st := rfl
@[simp] theorem zeroized_bufLen (st : MacSt) : (MacState.zeroized st).bufLen = 0 := rfl
@[simp] theorem zeroized_acc (st : MacSt) : (MacState.zeroized st).acc = modP 0 := rfl
@[simp] theorem zeroized_rl (st : MacSt) : (MacState.zeroized st).rl = .replicate 5 0#32 := rfl
@[simp] theorem zeroized_sp (st : MacSt) : (MacState.zeroized st).sp = .replicate 4 0#32 := rfl
@[simp] theorem zeroized_buf (st : MacSt) : (MacState.zeroized st).buf = .replicate 15 0#8 := rfl

/-! `State.complete`. -/

@[simp] theorem complete_cfg (c : Code) : (s.complete c).cfg = s.cfg := rfl
@[simp] theorem complete_ie (c : Code) : (s.complete c).ie = s.ie := rfl
@[simp] theorem complete_busy (c : Code) : (s.complete c).busy = false := rfl
@[simp] theorem complete_done (c : Code) : (s.complete c).done = true := rfl
@[simp] theorem complete_eq (c : Code) : (s.complete c).eq = s.eq := rfl
@[simp] theorem complete_haz (c : Code) : (s.complete c).haz = s.haz := rfl
@[simp] theorem complete_err (c : Code) : (s.complete c).err = c := rfl
@[simp] theorem complete_aPtr (c : Code) : (s.complete c).aPtr = s.aPtr := rfl
@[simp] theorem complete_aLen (c : Code) : (s.complete c).aLen = s.aLen := rfl
@[simp] theorem complete_tPtr (c : Code) : (s.complete c).tPtr = s.tPtr := rfl
@[simp] theorem complete_tLen (c : Code) : (s.complete c).tLen = s.tLen := rfl
@[simp] theorem complete_key (c : Code) : (s.complete c).key = s.key := rfl
@[simp] theorem complete_nonce (c : Code) : (s.complete c).nonce = s.nonce := rfl
@[simp] theorem complete_counter (c : Code) : (s.complete c).counter = s.counter := rfl
@[simp] theorem complete_tag (c : Code) : (s.complete c).tag = s.tag := rfl
@[simp] theorem complete_tagx (c : Code) : (s.complete c).tagx = s.tagx := rfl
@[simp] theorem complete_ks (c : Code) : (s.complete c).ks = s.ks := rfl
@[simp] theorem complete_dmem (c : Code) : (s.complete c).dmem = s.dmem := rfl
@[simp] theorem complete_mac (c : Code) : (s.complete c).mac = s.mac := rfl
@[simp] theorem complete_ksgX (c : Code) : (s.complete c).ksgX = s.ksgX := rfl
@[simp] theorem complete_ksgW (c : Code) : (s.complete c).ksgW = s.ksgW := rfl
@[simp] theorem complete_pend (c : Code) : (s.complete c).pend = 0#32 := rfl
@[simp] theorem complete_otk (c : Code) : (s.complete c).otk = s.otk := rfl
@[simp] theorem complete_etag (c : Code) : (s.complete c).etag = s.etag := rfl
@[simp] theorem complete_fresh (c : Code) : (s.complete c).fresh = s.fresh := rfl
@[simp] theorem complete_delay (c : Code) : (s.complete c).delay = 0 := rfl
@[simp] theorem complete_lats (c : Code) : (s.complete c).lats = s.lats := rfl
@[simp] theorem complete_inbox (c : Code) : (s.complete c).inbox = s.inbox := rfl
@[simp] theorem complete_readLog (c : Code) : (s.complete c).readLog = s.readLog := rfl

/-! `State.issue`. -/

@[simp] theorem issue_cfg (v : Word) : (s.issue v).cfg = s.cfg := rfl
@[simp] theorem issue_ie (v : Word) : (s.issue v).ie = s.ie := rfl
@[simp] theorem issue_busy (v : Word) : (s.issue v).busy = true := rfl
@[simp] theorem issue_done (v : Word) : (s.issue v).done = false := rfl
@[simp] theorem issue_eq (v : Word) : (s.issue v).eq = s.eq := rfl
@[simp] theorem issue_haz (v : Word) : (s.issue v).haz = s.haz := rfl
@[simp] theorem issue_err (v : Word) : (s.issue v).err = s.err := rfl
@[simp] theorem issue_aPtr (v : Word) : (s.issue v).aPtr = s.aPtr := rfl
@[simp] theorem issue_aLen (v : Word) : (s.issue v).aLen = s.aLen := rfl
@[simp] theorem issue_tPtr (v : Word) : (s.issue v).tPtr = s.tPtr := rfl
@[simp] theorem issue_tLen (v : Word) : (s.issue v).tLen = s.tLen := rfl
@[simp] theorem issue_key (v : Word) : (s.issue v).key = s.key := rfl
@[simp] theorem issue_nonce (v : Word) : (s.issue v).nonce = s.nonce := rfl
@[simp] theorem issue_counter (v : Word) : (s.issue v).counter = s.counter := rfl
@[simp] theorem issue_tag (v : Word) : (s.issue v).tag = s.tag := rfl
@[simp] theorem issue_tagx (v : Word) : (s.issue v).tagx = s.tagx := rfl
@[simp] theorem issue_ks (v : Word) : (s.issue v).ks = s.ks := rfl
@[simp] theorem issue_dmem (v : Word) : (s.issue v).dmem = s.dmem := rfl
@[simp] theorem issue_mac (v : Word) : (s.issue v).mac = s.mac := rfl
@[simp] theorem issue_ksgX (v : Word) : (s.issue v).ksgX = s.ksgX := rfl
@[simp] theorem issue_ksgW (v : Word) : (s.issue v).ksgW = s.ksgW := rfl
@[simp] theorem issue_pend (v : Word) : (s.issue v).pend = v := rfl
@[simp] theorem issue_otk (v : Word) : (s.issue v).otk = s.otk := rfl
@[simp] theorem issue_etag (v : Word) : (s.issue v).etag = s.etag := rfl
@[simp] theorem issue_fresh (v : Word) : (s.issue v).fresh = s.fresh := rfl
@[simp] theorem issue_delay (v : Word) : (s.issue v).delay = s.lats.headD 0 := rfl
@[simp] theorem issue_lats (v : Word) : (s.issue v).lats = s.lats.tail := rfl
@[simp] theorem issue_inbox (v : Word) : (s.issue v).inbox = s.inbox := rfl
@[simp] theorem issue_readLog (v : Word) : (s.issue v).readLog = s.readLog := rfl

/-! `State.placeCommand`. -/

@[simp] theorem placeCommand_cfg (v : Word) : (s.placeCommand v).cfg = s.cfg := rfl
@[simp] theorem placeCommand_ie (v : Word) : (s.placeCommand v).ie = s.ie := rfl
@[simp] theorem placeCommand_busy (v : Word) : (s.placeCommand v).busy = true := rfl
@[simp] theorem placeCommand_done (v : Word) : (s.placeCommand v).done = false := rfl
@[simp] theorem placeCommand_eq (v : Word) : (s.placeCommand v).eq = s.eq := rfl
@[simp] theorem placeCommand_haz (v : Word) : (s.placeCommand v).haz = s.haz := rfl
@[simp] theorem placeCommand_err (v : Word) : (s.placeCommand v).err = s.err := rfl
@[simp] theorem placeCommand_aPtr (v : Word) : (s.placeCommand v).aPtr = s.aPtr := rfl
@[simp] theorem placeCommand_aLen (v : Word) : (s.placeCommand v).aLen = s.aLen := rfl
@[simp] theorem placeCommand_tPtr (v : Word) : (s.placeCommand v).tPtr = s.tPtr := rfl
@[simp] theorem placeCommand_tLen (v : Word) : (s.placeCommand v).tLen = s.tLen := rfl
@[simp] theorem placeCommand_key (v : Word) : (s.placeCommand v).key = s.key := rfl
@[simp] theorem placeCommand_nonce (v : Word) : (s.placeCommand v).nonce = s.nonce := rfl
@[simp] theorem placeCommand_counter (v : Word) : (s.placeCommand v).counter = s.counter := rfl
@[simp] theorem placeCommand_tag (v : Word) : (s.placeCommand v).tag = s.tag := rfl
@[simp] theorem placeCommand_tagx (v : Word) : (s.placeCommand v).tagx = s.tagx := rfl
@[simp] theorem placeCommand_ks (v : Word) : (s.placeCommand v).ks = s.ks := rfl
@[simp] theorem placeCommand_dmem (v : Word) : (s.placeCommand v).dmem = s.dmem := rfl
@[simp] theorem placeCommand_mac (v : Word) : (s.placeCommand v).mac = s.mac := rfl
@[simp] theorem placeCommand_ksgX (v : Word) : (s.placeCommand v).ksgX = s.ksgX := rfl
@[simp] theorem placeCommand_ksgW (v : Word) : (s.placeCommand v).ksgW = s.ksgW := rfl
@[simp] theorem placeCommand_pend (v : Word) : (s.placeCommand v).pend = v := rfl
@[simp] theorem placeCommand_otk (v : Word) : (s.placeCommand v).otk = s.otk := rfl
@[simp] theorem placeCommand_etag (v : Word) : (s.placeCommand v).etag = s.etag := rfl
@[simp] theorem placeCommand_fresh (v : Word) : (s.placeCommand v).fresh = s.fresh := rfl
@[simp] theorem placeCommand_delay (v : Word) : (s.placeCommand v).delay = 0 := rfl
@[simp] theorem placeCommand_lats (v : Word) : (s.placeCommand v).lats = s.lats := rfl
@[simp] theorem placeCommand_inbox (v : Word) : (s.placeCommand v).inbox = s.inbox := rfl
@[simp] theorem placeCommand_readLog (v : Word) : (s.placeCommand v).readLog = s.readLog := rfl

/-! `State.takeInput`. -/

@[simp] theorem takeInput_cfg (rest : List HostInput) : (s.takeInput rest).cfg = s.cfg := rfl
@[simp] theorem takeInput_ie (rest : List HostInput) : (s.takeInput rest).ie = s.ie := rfl
@[simp] theorem takeInput_busy (rest : List HostInput) : (s.takeInput rest).busy = s.busy := rfl
@[simp] theorem takeInput_done (rest : List HostInput) : (s.takeInput rest).done = s.done := rfl
@[simp] theorem takeInput_eq (rest : List HostInput) : (s.takeInput rest).eq = s.eq := rfl
@[simp] theorem takeInput_haz (rest : List HostInput) : (s.takeInput rest).haz = s.haz := rfl
@[simp] theorem takeInput_err (rest : List HostInput) : (s.takeInput rest).err = s.err := rfl
@[simp] theorem takeInput_aPtr (rest : List HostInput) : (s.takeInput rest).aPtr = s.aPtr := rfl
@[simp] theorem takeInput_aLen (rest : List HostInput) : (s.takeInput rest).aLen = s.aLen := rfl
@[simp] theorem takeInput_tPtr (rest : List HostInput) : (s.takeInput rest).tPtr = s.tPtr := rfl
@[simp] theorem takeInput_tLen (rest : List HostInput) : (s.takeInput rest).tLen = s.tLen := rfl
@[simp] theorem takeInput_key (rest : List HostInput) : (s.takeInput rest).key = s.key := rfl
@[simp] theorem takeInput_nonce (rest : List HostInput) : (s.takeInput rest).nonce = s.nonce := rfl
@[simp] theorem takeInput_counter (rest : List HostInput) : (s.takeInput rest).counter = s.counter := rfl
@[simp] theorem takeInput_tag (rest : List HostInput) : (s.takeInput rest).tag = s.tag := rfl
@[simp] theorem takeInput_tagx (rest : List HostInput) : (s.takeInput rest).tagx = s.tagx := rfl
@[simp] theorem takeInput_ks (rest : List HostInput) : (s.takeInput rest).ks = s.ks := rfl
@[simp] theorem takeInput_dmem (rest : List HostInput) : (s.takeInput rest).dmem = s.dmem := rfl
@[simp] theorem takeInput_mac (rest : List HostInput) : (s.takeInput rest).mac = s.mac := rfl
@[simp] theorem takeInput_ksgX (rest : List HostInput) : (s.takeInput rest).ksgX = s.ksgX := rfl
@[simp] theorem takeInput_ksgW (rest : List HostInput) : (s.takeInput rest).ksgW = s.ksgW := rfl
@[simp] theorem takeInput_pend (rest : List HostInput) : (s.takeInput rest).pend = s.pend := rfl
@[simp] theorem takeInput_otk (rest : List HostInput) : (s.takeInput rest).otk = s.otk := rfl
@[simp] theorem takeInput_etag (rest : List HostInput) : (s.takeInput rest).etag = s.etag := rfl
@[simp] theorem takeInput_fresh (rest : List HostInput) : (s.takeInput rest).fresh = s.fresh := rfl
@[simp] theorem takeInput_delay (rest : List HostInput) : (s.takeInput rest).delay = s.delay - 1 := rfl
@[simp] theorem takeInput_lats (rest : List HostInput) : (s.takeInput rest).lats = s.lats := rfl
@[simp] theorem takeInput_inbox (rest : List HostInput) : (s.takeInput rest).inbox = rest := rfl
@[simp] theorem takeInput_readLog (rest : List HostInput) : (s.takeInput rest).readLog = s.readLog := rfl

/-! `State.setHaz`. -/

@[simp] theorem setHaz_cfg : s.setHaz.cfg = s.cfg := rfl
@[simp] theorem setHaz_ie : s.setHaz.ie = s.ie := rfl
@[simp] theorem setHaz_busy : s.setHaz.busy = s.busy := rfl
@[simp] theorem setHaz_done : s.setHaz.done = s.done := rfl
@[simp] theorem setHaz_eq : s.setHaz.eq = s.eq := rfl
@[simp] theorem setHaz_haz : s.setHaz.haz = true := rfl
@[simp] theorem setHaz_err : s.setHaz.err = s.err := rfl
@[simp] theorem setHaz_aPtr : s.setHaz.aPtr = s.aPtr := rfl
@[simp] theorem setHaz_aLen : s.setHaz.aLen = s.aLen := rfl
@[simp] theorem setHaz_tPtr : s.setHaz.tPtr = s.tPtr := rfl
@[simp] theorem setHaz_tLen : s.setHaz.tLen = s.tLen := rfl
@[simp] theorem setHaz_key : s.setHaz.key = s.key := rfl
@[simp] theorem setHaz_nonce : s.setHaz.nonce = s.nonce := rfl
@[simp] theorem setHaz_counter : s.setHaz.counter = s.counter := rfl
@[simp] theorem setHaz_tag : s.setHaz.tag = s.tag := rfl
@[simp] theorem setHaz_tagx : s.setHaz.tagx = s.tagx := rfl
@[simp] theorem setHaz_ks : s.setHaz.ks = s.ks := rfl
@[simp] theorem setHaz_dmem : s.setHaz.dmem = s.dmem := rfl
@[simp] theorem setHaz_mac : s.setHaz.mac = s.mac := rfl
@[simp] theorem setHaz_ksgX : s.setHaz.ksgX = s.ksgX := rfl
@[simp] theorem setHaz_ksgW : s.setHaz.ksgW = s.ksgW := rfl
@[simp] theorem setHaz_pend : s.setHaz.pend = s.pend := rfl
@[simp] theorem setHaz_otk : s.setHaz.otk = s.otk := rfl
@[simp] theorem setHaz_etag : s.setHaz.etag = s.etag := rfl
@[simp] theorem setHaz_fresh : s.setHaz.fresh = s.fresh := rfl
@[simp] theorem setHaz_delay : s.setHaz.delay = s.delay := rfl
@[simp] theorem setHaz_lats : s.setHaz.lats = s.lats := rfl
@[simp] theorem setHaz_inbox : s.setHaz.inbox = s.inbox := rfl
@[simp] theorem setHaz_readLog : s.setHaz.readLog = s.readLog := rfl

/-! `State.setEq`. -/

@[simp] theorem setEq_cfg (b : Bool) : (s.setEq b).cfg = s.cfg := rfl
@[simp] theorem setEq_ie (b : Bool) : (s.setEq b).ie = s.ie := rfl
@[simp] theorem setEq_busy (b : Bool) : (s.setEq b).busy = s.busy := rfl
@[simp] theorem setEq_done (b : Bool) : (s.setEq b).done = s.done := rfl
@[simp] theorem setEq_eq (b : Bool) : (s.setEq b).eq = b := rfl
@[simp] theorem setEq_haz (b : Bool) : (s.setEq b).haz = s.haz := rfl
@[simp] theorem setEq_err (b : Bool) : (s.setEq b).err = s.err := rfl
@[simp] theorem setEq_aPtr (b : Bool) : (s.setEq b).aPtr = s.aPtr := rfl
@[simp] theorem setEq_aLen (b : Bool) : (s.setEq b).aLen = s.aLen := rfl
@[simp] theorem setEq_tPtr (b : Bool) : (s.setEq b).tPtr = s.tPtr := rfl
@[simp] theorem setEq_tLen (b : Bool) : (s.setEq b).tLen = s.tLen := rfl
@[simp] theorem setEq_key (b : Bool) : (s.setEq b).key = s.key := rfl
@[simp] theorem setEq_nonce (b : Bool) : (s.setEq b).nonce = s.nonce := rfl
@[simp] theorem setEq_counter (b : Bool) : (s.setEq b).counter = s.counter := rfl
@[simp] theorem setEq_tag (b : Bool) : (s.setEq b).tag = s.tag := rfl
@[simp] theorem setEq_tagx (b : Bool) : (s.setEq b).tagx = s.tagx := rfl
@[simp] theorem setEq_ks (b : Bool) : (s.setEq b).ks = s.ks := rfl
@[simp] theorem setEq_dmem (b : Bool) : (s.setEq b).dmem = s.dmem := rfl
@[simp] theorem setEq_mac (b : Bool) : (s.setEq b).mac = s.mac := rfl
@[simp] theorem setEq_ksgX (b : Bool) : (s.setEq b).ksgX = s.ksgX := rfl
@[simp] theorem setEq_ksgW (b : Bool) : (s.setEq b).ksgW = s.ksgW := rfl
@[simp] theorem setEq_pend (b : Bool) : (s.setEq b).pend = s.pend := rfl
@[simp] theorem setEq_otk (b : Bool) : (s.setEq b).otk = s.otk := rfl
@[simp] theorem setEq_etag (b : Bool) : (s.setEq b).etag = s.etag := rfl
@[simp] theorem setEq_fresh (b : Bool) : (s.setEq b).fresh = s.fresh := rfl
@[simp] theorem setEq_delay (b : Bool) : (s.setEq b).delay = s.delay := rfl
@[simp] theorem setEq_lats (b : Bool) : (s.setEq b).lats = s.lats := rfl
@[simp] theorem setEq_inbox (b : Bool) : (s.setEq b).inbox = s.inbox := rfl
@[simp] theorem setEq_readLog (b : Bool) : (s.setEq b).readLog = s.readLog := rfl

/-! `State.writeCtrl`. -/

@[simp] theorem writeCtrl_cfg (v : Word) : (s.writeCtrl v).cfg = s.cfg := rfl
@[simp] theorem writeCtrl_ie (v : Word) : (s.writeCtrl v).ie = v.getLsbD 0 := rfl
@[simp] theorem writeCtrl_busy (v : Word) : (s.writeCtrl v).busy = s.busy := rfl
@[simp] theorem writeCtrl_done (v : Word) : (s.writeCtrl v).done = s.done := rfl
@[simp] theorem writeCtrl_eq (v : Word) : (s.writeCtrl v).eq = s.eq := rfl
@[simp] theorem writeCtrl_haz (v : Word) : (s.writeCtrl v).haz = s.haz := rfl
@[simp] theorem writeCtrl_err (v : Word) : (s.writeCtrl v).err = s.err := rfl
@[simp] theorem writeCtrl_aPtr (v : Word) : (s.writeCtrl v).aPtr = s.aPtr := rfl
@[simp] theorem writeCtrl_aLen (v : Word) : (s.writeCtrl v).aLen = s.aLen := rfl
@[simp] theorem writeCtrl_tPtr (v : Word) : (s.writeCtrl v).tPtr = s.tPtr := rfl
@[simp] theorem writeCtrl_tLen (v : Word) : (s.writeCtrl v).tLen = s.tLen := rfl
@[simp] theorem writeCtrl_key (v : Word) : (s.writeCtrl v).key = s.key := rfl
@[simp] theorem writeCtrl_nonce (v : Word) : (s.writeCtrl v).nonce = s.nonce := rfl
@[simp] theorem writeCtrl_counter (v : Word) : (s.writeCtrl v).counter = s.counter := rfl
@[simp] theorem writeCtrl_tag (v : Word) : (s.writeCtrl v).tag = s.tag := rfl
@[simp] theorem writeCtrl_tagx (v : Word) : (s.writeCtrl v).tagx = s.tagx := rfl
@[simp] theorem writeCtrl_ks (v : Word) : (s.writeCtrl v).ks = s.ks := rfl
@[simp] theorem writeCtrl_dmem (v : Word) : (s.writeCtrl v).dmem = s.dmem := rfl
@[simp] theorem writeCtrl_mac (v : Word) : (s.writeCtrl v).mac = s.mac := rfl
@[simp] theorem writeCtrl_ksgX (v : Word) : (s.writeCtrl v).ksgX = s.ksgX := rfl
@[simp] theorem writeCtrl_ksgW (v : Word) : (s.writeCtrl v).ksgW = s.ksgW := rfl
@[simp] theorem writeCtrl_pend (v : Word) : (s.writeCtrl v).pend = s.pend := rfl
@[simp] theorem writeCtrl_otk (v : Word) : (s.writeCtrl v).otk = s.otk := rfl
@[simp] theorem writeCtrl_etag (v : Word) : (s.writeCtrl v).etag = s.etag := rfl
@[simp] theorem writeCtrl_fresh (v : Word) : (s.writeCtrl v).fresh = s.fresh := rfl
@[simp] theorem writeCtrl_delay (v : Word) : (s.writeCtrl v).delay = s.delay := rfl
@[simp] theorem writeCtrl_lats (v : Word) : (s.writeCtrl v).lats = s.lats := rfl
@[simp] theorem writeCtrl_inbox (v : Word) : (s.writeCtrl v).inbox = s.inbox := rfl
@[simp] theorem writeCtrl_readLog (v : Word) : (s.writeCtrl v).readLog = s.readLog := rfl

/-! `State.writeStatus`. -/

@[simp] theorem writeStatus_cfg (v : Word) : (s.writeStatus v).cfg = s.cfg := rfl
@[simp] theorem writeStatus_ie (v : Word) : (s.writeStatus v).ie = s.ie := rfl
@[simp] theorem writeStatus_busy (v : Word) : (s.writeStatus v).busy = s.busy := rfl
@[simp] theorem writeStatus_done (v : Word) : (s.writeStatus v).done = (s.done && !v.getLsbD 1) := rfl
@[simp] theorem writeStatus_eq (v : Word) : (s.writeStatus v).eq = s.eq := rfl
@[simp] theorem writeStatus_haz (v : Word) : (s.writeStatus v).haz = (s.haz && !v.getLsbD 6) := rfl
@[simp] theorem writeStatus_err (v : Word) : (s.writeStatus v).err = s.err := rfl
@[simp] theorem writeStatus_aPtr (v : Word) : (s.writeStatus v).aPtr = s.aPtr := rfl
@[simp] theorem writeStatus_aLen (v : Word) : (s.writeStatus v).aLen = s.aLen := rfl
@[simp] theorem writeStatus_tPtr (v : Word) : (s.writeStatus v).tPtr = s.tPtr := rfl
@[simp] theorem writeStatus_tLen (v : Word) : (s.writeStatus v).tLen = s.tLen := rfl
@[simp] theorem writeStatus_key (v : Word) : (s.writeStatus v).key = s.key := rfl
@[simp] theorem writeStatus_nonce (v : Word) : (s.writeStatus v).nonce = s.nonce := rfl
@[simp] theorem writeStatus_counter (v : Word) : (s.writeStatus v).counter = s.counter := rfl
@[simp] theorem writeStatus_tag (v : Word) : (s.writeStatus v).tag = s.tag := rfl
@[simp] theorem writeStatus_tagx (v : Word) : (s.writeStatus v).tagx = s.tagx := rfl
@[simp] theorem writeStatus_ks (v : Word) : (s.writeStatus v).ks = s.ks := rfl
@[simp] theorem writeStatus_dmem (v : Word) : (s.writeStatus v).dmem = s.dmem := rfl
@[simp] theorem writeStatus_mac (v : Word) : (s.writeStatus v).mac = s.mac := rfl
@[simp] theorem writeStatus_ksgX (v : Word) : (s.writeStatus v).ksgX = s.ksgX := rfl
@[simp] theorem writeStatus_ksgW (v : Word) : (s.writeStatus v).ksgW = s.ksgW := rfl
@[simp] theorem writeStatus_pend (v : Word) : (s.writeStatus v).pend = s.pend := rfl
@[simp] theorem writeStatus_otk (v : Word) : (s.writeStatus v).otk = s.otk := rfl
@[simp] theorem writeStatus_etag (v : Word) : (s.writeStatus v).etag = s.etag := rfl
@[simp] theorem writeStatus_fresh (v : Word) : (s.writeStatus v).fresh = s.fresh := rfl
@[simp] theorem writeStatus_delay (v : Word) : (s.writeStatus v).delay = s.delay := rfl
@[simp] theorem writeStatus_lats (v : Word) : (s.writeStatus v).lats = s.lats := rfl
@[simp] theorem writeStatus_inbox (v : Word) : (s.writeStatus v).inbox = s.inbox := rfl
@[simp] theorem writeStatus_readLog (v : Word) : (s.writeStatus v).readLog = s.readLog := rfl

/-! `State.noteRead`. -/

@[simp] theorem noteRead_cfg (o v : Word) : (s.noteRead o v).cfg = s.cfg := rfl
@[simp] theorem noteRead_ie (o v : Word) : (s.noteRead o v).ie = s.ie := rfl
@[simp] theorem noteRead_busy (o v : Word) : (s.noteRead o v).busy = s.busy := rfl
@[simp] theorem noteRead_done (o v : Word) : (s.noteRead o v).done = s.done := rfl
@[simp] theorem noteRead_eq (o v : Word) : (s.noteRead o v).eq = s.eq := rfl
@[simp] theorem noteRead_haz (o v : Word) : (s.noteRead o v).haz = s.haz := rfl
@[simp] theorem noteRead_err (o v : Word) : (s.noteRead o v).err = s.err := rfl
@[simp] theorem noteRead_aPtr (o v : Word) : (s.noteRead o v).aPtr = s.aPtr := rfl
@[simp] theorem noteRead_aLen (o v : Word) : (s.noteRead o v).aLen = s.aLen := rfl
@[simp] theorem noteRead_tPtr (o v : Word) : (s.noteRead o v).tPtr = s.tPtr := rfl
@[simp] theorem noteRead_tLen (o v : Word) : (s.noteRead o v).tLen = s.tLen := rfl
@[simp] theorem noteRead_key (o v : Word) : (s.noteRead o v).key = s.key := rfl
@[simp] theorem noteRead_nonce (o v : Word) : (s.noteRead o v).nonce = s.nonce := rfl
@[simp] theorem noteRead_counter (o v : Word) : (s.noteRead o v).counter = s.counter := rfl
@[simp] theorem noteRead_tag (o v : Word) : (s.noteRead o v).tag = s.tag := rfl
@[simp] theorem noteRead_tagx (o v : Word) : (s.noteRead o v).tagx = s.tagx := rfl
@[simp] theorem noteRead_ks (o v : Word) : (s.noteRead o v).ks = s.ks := rfl
@[simp] theorem noteRead_dmem (o v : Word) : (s.noteRead o v).dmem = s.dmem := rfl
@[simp] theorem noteRead_mac (o v : Word) : (s.noteRead o v).mac = s.mac := rfl
@[simp] theorem noteRead_ksgX (o v : Word) : (s.noteRead o v).ksgX = s.ksgX := rfl
@[simp] theorem noteRead_ksgW (o v : Word) : (s.noteRead o v).ksgW = s.ksgW := rfl
@[simp] theorem noteRead_pend (o v : Word) : (s.noteRead o v).pend = s.pend := rfl
@[simp] theorem noteRead_otk (o v : Word) : (s.noteRead o v).otk = s.otk := rfl
@[simp] theorem noteRead_etag (o v : Word) : (s.noteRead o v).etag = s.etag := rfl
@[simp] theorem noteRead_fresh (o v : Word) : (s.noteRead o v).fresh = s.fresh := rfl
@[simp] theorem noteRead_delay (o v : Word) : (s.noteRead o v).delay = s.delay := rfl
@[simp] theorem noteRead_lats (o v : Word) : (s.noteRead o v).lats = s.lats := rfl
@[simp] theorem noteRead_inbox (o v : Word) : (s.noteRead o v).inbox = s.inbox := rfl
@[simp] theorem noteRead_readLog (o v : Word) : (s.noteRead o v).readLog = (o, v) :: s.readLog := rfl

/-! `State.memWrite`. -/

@[simp] theorem memWrite_cfg (a : Nat) (B : List Byte) : (s.memWrite a B).cfg = s.cfg := rfl
@[simp] theorem memWrite_ie (a : Nat) (B : List Byte) : (s.memWrite a B).ie = s.ie := rfl
@[simp] theorem memWrite_busy (a : Nat) (B : List Byte) : (s.memWrite a B).busy = s.busy := rfl
@[simp] theorem memWrite_done (a : Nat) (B : List Byte) : (s.memWrite a B).done = s.done := rfl
@[simp] theorem memWrite_eq (a : Nat) (B : List Byte) : (s.memWrite a B).eq = s.eq := rfl
@[simp] theorem memWrite_haz (a : Nat) (B : List Byte) : (s.memWrite a B).haz = s.haz := rfl
@[simp] theorem memWrite_err (a : Nat) (B : List Byte) : (s.memWrite a B).err = s.err := rfl
@[simp] theorem memWrite_aPtr (a : Nat) (B : List Byte) : (s.memWrite a B).aPtr = s.aPtr := rfl
@[simp] theorem memWrite_aLen (a : Nat) (B : List Byte) : (s.memWrite a B).aLen = s.aLen := rfl
@[simp] theorem memWrite_tPtr (a : Nat) (B : List Byte) : (s.memWrite a B).tPtr = s.tPtr := rfl
@[simp] theorem memWrite_tLen (a : Nat) (B : List Byte) : (s.memWrite a B).tLen = s.tLen := rfl
@[simp] theorem memWrite_key (a : Nat) (B : List Byte) : (s.memWrite a B).key = s.key := rfl
@[simp] theorem memWrite_nonce (a : Nat) (B : List Byte) : (s.memWrite a B).nonce = s.nonce := rfl
@[simp] theorem memWrite_counter (a : Nat) (B : List Byte) : (s.memWrite a B).counter = s.counter := rfl
@[simp] theorem memWrite_tag (a : Nat) (B : List Byte) : (s.memWrite a B).tag = s.tag := rfl
@[simp] theorem memWrite_tagx (a : Nat) (B : List Byte) : (s.memWrite a B).tagx = s.tagx := rfl
@[simp] theorem memWrite_ks (a : Nat) (B : List Byte) : (s.memWrite a B).ks = s.ks := rfl
@[simp] theorem memWrite_dmem (a : Nat) (B : List Byte) : (s.memWrite a B).dmem = s.dmem.write a B := rfl
@[simp] theorem memWrite_mac (a : Nat) (B : List Byte) : (s.memWrite a B).mac = s.mac := rfl
@[simp] theorem memWrite_ksgX (a : Nat) (B : List Byte) : (s.memWrite a B).ksgX = s.ksgX := rfl
@[simp] theorem memWrite_ksgW (a : Nat) (B : List Byte) : (s.memWrite a B).ksgW = s.ksgW := rfl
@[simp] theorem memWrite_pend (a : Nat) (B : List Byte) : (s.memWrite a B).pend = s.pend := rfl
@[simp] theorem memWrite_otk (a : Nat) (B : List Byte) : (s.memWrite a B).otk = s.otk := rfl
@[simp] theorem memWrite_etag (a : Nat) (B : List Byte) : (s.memWrite a B).etag = s.etag := rfl
@[simp] theorem memWrite_fresh (a : Nat) (B : List Byte) : (s.memWrite a B).fresh = s.fresh := rfl
@[simp] theorem memWrite_delay (a : Nat) (B : List Byte) : (s.memWrite a B).delay = s.delay := rfl
@[simp] theorem memWrite_lats (a : Nat) (B : List Byte) : (s.memWrite a B).lats = s.lats := rfl
@[simp] theorem memWrite_inbox (a : Nat) (B : List Byte) : (s.memWrite a B).inbox = s.inbox := rfl
@[simp] theorem memWrite_readLog (a : Nat) (B : List Byte) : (s.memWrite a B).readLog = s.readLog := rfl

/-! `State.setTag`. -/

@[simp] theorem setTag_cfg (T : List Byte) : (s.setTag T).cfg = s.cfg := by simp only [State.setTag]
@[simp] theorem setTag_ie (T : List Byte) : (s.setTag T).ie = s.ie := by simp only [State.setTag]
@[simp] theorem setTag_busy (T : List Byte) : (s.setTag T).busy = s.busy := by simp only [State.setTag]
@[simp] theorem setTag_done (T : List Byte) : (s.setTag T).done = s.done := by simp only [State.setTag]
@[simp] theorem setTag_eq (T : List Byte) : (s.setTag T).eq = s.eq := by simp only [State.setTag]
@[simp] theorem setTag_haz (T : List Byte) : (s.setTag T).haz = s.haz := by simp only [State.setTag]
@[simp] theorem setTag_err (T : List Byte) : (s.setTag T).err = s.err := by simp only [State.setTag]
@[simp] theorem setTag_aPtr (T : List Byte) : (s.setTag T).aPtr = s.aPtr := by simp only [State.setTag]
@[simp] theorem setTag_aLen (T : List Byte) : (s.setTag T).aLen = s.aLen := by simp only [State.setTag]
@[simp] theorem setTag_tPtr (T : List Byte) : (s.setTag T).tPtr = s.tPtr := by simp only [State.setTag]
@[simp] theorem setTag_tLen (T : List Byte) : (s.setTag T).tLen = s.tLen := by simp only [State.setTag]
@[simp] theorem setTag_key (T : List Byte) : (s.setTag T).key = s.key := by simp only [State.setTag]
@[simp] theorem setTag_nonce (T : List Byte) : (s.setTag T).nonce = s.nonce := by simp only [State.setTag]
@[simp] theorem setTag_counter (T : List Byte) : (s.setTag T).counter = s.counter := by simp only [State.setTag]
@[simp] theorem setTag_tag (T : List Byte) : (s.setTag T).tag = bytesWords 4 T := by simp only [State.setTag]
@[simp] theorem setTag_tagx (T : List Byte) : (s.setTag T).tagx = s.tagx := by simp only [State.setTag]
@[simp] theorem setTag_ks (T : List Byte) : (s.setTag T).ks = s.ks := by simp only [State.setTag]
@[simp] theorem setTag_dmem (T : List Byte) : (s.setTag T).dmem = s.dmem := by simp only [State.setTag]
@[simp] theorem setTag_mac (T : List Byte) : (s.setTag T).mac = s.mac := by simp only [State.setTag]
@[simp] theorem setTag_ksgX (T : List Byte) : (s.setTag T).ksgX = s.ksgX := by simp only [State.setTag]
@[simp] theorem setTag_ksgW (T : List Byte) : (s.setTag T).ksgW = s.ksgW := by simp only [State.setTag]
@[simp] theorem setTag_pend (T : List Byte) : (s.setTag T).pend = s.pend := by simp only [State.setTag]
@[simp] theorem setTag_otk (T : List Byte) : (s.setTag T).otk = s.otk := by simp only [State.setTag]
@[simp] theorem setTag_etag (T : List Byte) : (s.setTag T).etag = s.etag := by simp only [State.setTag]
@[simp] theorem setTag_fresh (T : List Byte) : (s.setTag T).fresh = s.fresh := by simp only [State.setTag]
@[simp] theorem setTag_delay (T : List Byte) : (s.setTag T).delay = s.delay := by simp only [State.setTag]
@[simp] theorem setTag_lats (T : List Byte) : (s.setTag T).lats = s.lats := by simp only [State.setTag]
@[simp] theorem setTag_inbox (T : List Byte) : (s.setTag T).inbox = s.inbox := by simp only [State.setTag]
@[simp] theorem setTag_readLog (T : List Byte) : (s.setTag T).readLog = s.readLog := by simp only [State.setTag]

/-! `State.setKs`. -/

@[simp] theorem setKs_cfg (B : List Byte) : (s.setKs B).cfg = s.cfg := by simp only [State.setKs]
@[simp] theorem setKs_ie (B : List Byte) : (s.setKs B).ie = s.ie := by simp only [State.setKs]
@[simp] theorem setKs_busy (B : List Byte) : (s.setKs B).busy = s.busy := by simp only [State.setKs]
@[simp] theorem setKs_done (B : List Byte) : (s.setKs B).done = s.done := by simp only [State.setKs]
@[simp] theorem setKs_eq (B : List Byte) : (s.setKs B).eq = s.eq := by simp only [State.setKs]
@[simp] theorem setKs_haz (B : List Byte) : (s.setKs B).haz = s.haz := by simp only [State.setKs]
@[simp] theorem setKs_err (B : List Byte) : (s.setKs B).err = s.err := by simp only [State.setKs]
@[simp] theorem setKs_aPtr (B : List Byte) : (s.setKs B).aPtr = s.aPtr := by simp only [State.setKs]
@[simp] theorem setKs_aLen (B : List Byte) : (s.setKs B).aLen = s.aLen := by simp only [State.setKs]
@[simp] theorem setKs_tPtr (B : List Byte) : (s.setKs B).tPtr = s.tPtr := by simp only [State.setKs]
@[simp] theorem setKs_tLen (B : List Byte) : (s.setKs B).tLen = s.tLen := by simp only [State.setKs]
@[simp] theorem setKs_key (B : List Byte) : (s.setKs B).key = s.key := by simp only [State.setKs]
@[simp] theorem setKs_nonce (B : List Byte) : (s.setKs B).nonce = s.nonce := by simp only [State.setKs]
@[simp] theorem setKs_counter (B : List Byte) : (s.setKs B).counter = s.counter := by simp only [State.setKs]
@[simp] theorem setKs_tag (B : List Byte) : (s.setKs B).tag = s.tag := by simp only [State.setKs]
@[simp] theorem setKs_tagx (B : List Byte) : (s.setKs B).tagx = s.tagx := by simp only [State.setKs]
@[simp] theorem setKs_ks (B : List Byte) : (s.setKs B).ks = bytesWords 16 B := by simp only [State.setKs]
@[simp] theorem setKs_dmem (B : List Byte) : (s.setKs B).dmem = s.dmem := by simp only [State.setKs]
@[simp] theorem setKs_mac (B : List Byte) : (s.setKs B).mac = s.mac := by simp only [State.setKs]
@[simp] theorem setKs_ksgX (B : List Byte) : (s.setKs B).ksgX = s.ksgX := by simp only [State.setKs]
@[simp] theorem setKs_ksgW (B : List Byte) : (s.setKs B).ksgW = s.ksgW := by simp only [State.setKs]
@[simp] theorem setKs_pend (B : List Byte) : (s.setKs B).pend = s.pend := by simp only [State.setKs]
@[simp] theorem setKs_otk (B : List Byte) : (s.setKs B).otk = s.otk := by simp only [State.setKs]
@[simp] theorem setKs_etag (B : List Byte) : (s.setKs B).etag = s.etag := by simp only [State.setKs]
@[simp] theorem setKs_fresh (B : List Byte) : (s.setKs B).fresh = s.fresh := by simp only [State.setKs]
@[simp] theorem setKs_delay (B : List Byte) : (s.setKs B).delay = s.delay := by simp only [State.setKs]
@[simp] theorem setKs_lats (B : List Byte) : (s.setKs B).lats = s.lats := by simp only [State.setKs]
@[simp] theorem setKs_inbox (B : List Byte) : (s.setKs B).inbox = s.inbox := by simp only [State.setKs]
@[simp] theorem setKs_readLog (B : List Byte) : (s.setKs B).readLog = s.readLog := by simp only [State.setKs]

/-! `State.setEtag`. -/

@[simp] theorem setEtag_cfg (T : List Byte) : (s.setEtag T).cfg = s.cfg := by simp only [State.setEtag]
@[simp] theorem setEtag_ie (T : List Byte) : (s.setEtag T).ie = s.ie := by simp only [State.setEtag]
@[simp] theorem setEtag_busy (T : List Byte) : (s.setEtag T).busy = s.busy := by simp only [State.setEtag]
@[simp] theorem setEtag_done (T : List Byte) : (s.setEtag T).done = s.done := by simp only [State.setEtag]
@[simp] theorem setEtag_eq (T : List Byte) : (s.setEtag T).eq = s.eq := by simp only [State.setEtag]
@[simp] theorem setEtag_haz (T : List Byte) : (s.setEtag T).haz = s.haz := by simp only [State.setEtag]
@[simp] theorem setEtag_err (T : List Byte) : (s.setEtag T).err = s.err := by simp only [State.setEtag]
@[simp] theorem setEtag_aPtr (T : List Byte) : (s.setEtag T).aPtr = s.aPtr := by simp only [State.setEtag]
@[simp] theorem setEtag_aLen (T : List Byte) : (s.setEtag T).aLen = s.aLen := by simp only [State.setEtag]
@[simp] theorem setEtag_tPtr (T : List Byte) : (s.setEtag T).tPtr = s.tPtr := by simp only [State.setEtag]
@[simp] theorem setEtag_tLen (T : List Byte) : (s.setEtag T).tLen = s.tLen := by simp only [State.setEtag]
@[simp] theorem setEtag_key (T : List Byte) : (s.setEtag T).key = s.key := by simp only [State.setEtag]
@[simp] theorem setEtag_nonce (T : List Byte) : (s.setEtag T).nonce = s.nonce := by simp only [State.setEtag]
@[simp] theorem setEtag_counter (T : List Byte) : (s.setEtag T).counter = s.counter := by simp only [State.setEtag]
@[simp] theorem setEtag_tag (T : List Byte) : (s.setEtag T).tag = s.tag := by simp only [State.setEtag]
@[simp] theorem setEtag_tagx (T : List Byte) : (s.setEtag T).tagx = s.tagx := by simp only [State.setEtag]
@[simp] theorem setEtag_ks (T : List Byte) : (s.setEtag T).ks = s.ks := by simp only [State.setEtag]
@[simp] theorem setEtag_dmem (T : List Byte) : (s.setEtag T).dmem = s.dmem := by simp only [State.setEtag]
@[simp] theorem setEtag_mac (T : List Byte) : (s.setEtag T).mac = s.mac := by simp only [State.setEtag]
@[simp] theorem setEtag_ksgX (T : List Byte) : (s.setEtag T).ksgX = s.ksgX := by simp only [State.setEtag]
@[simp] theorem setEtag_ksgW (T : List Byte) : (s.setEtag T).ksgW = s.ksgW := by simp only [State.setEtag]
@[simp] theorem setEtag_pend (T : List Byte) : (s.setEtag T).pend = s.pend := by simp only [State.setEtag]
@[simp] theorem setEtag_otk (T : List Byte) : (s.setEtag T).otk = s.otk := by simp only [State.setEtag]
@[simp] theorem setEtag_etag (T : List Byte) : (s.setEtag T).etag = bytesStore 16 T := by simp only [State.setEtag]
@[simp] theorem setEtag_fresh (T : List Byte) : (s.setEtag T).fresh = s.fresh := by simp only [State.setEtag]
@[simp] theorem setEtag_delay (T : List Byte) : (s.setEtag T).delay = s.delay := by simp only [State.setEtag]
@[simp] theorem setEtag_lats (T : List Byte) : (s.setEtag T).lats = s.lats := by simp only [State.setEtag]
@[simp] theorem setEtag_inbox (T : List Byte) : (s.setEtag T).inbox = s.inbox := by simp only [State.setEtag]
@[simp] theorem setEtag_readLog (T : List Byte) : (s.setEtag T).readLog = s.readLog := by simp only [State.setEtag]

/-! `State.forgetKsg`. -/

@[simp] theorem forgetKsg_cfg : s.forgetKsg.cfg = s.cfg := rfl
@[simp] theorem forgetKsg_ie : s.forgetKsg.ie = s.ie := rfl
@[simp] theorem forgetKsg_busy : s.forgetKsg.busy = s.busy := rfl
@[simp] theorem forgetKsg_done : s.forgetKsg.done = s.done := rfl
@[simp] theorem forgetKsg_eq : s.forgetKsg.eq = s.eq := rfl
@[simp] theorem forgetKsg_haz : s.forgetKsg.haz = s.haz := rfl
@[simp] theorem forgetKsg_err : s.forgetKsg.err = s.err := rfl
@[simp] theorem forgetKsg_aPtr : s.forgetKsg.aPtr = s.aPtr := rfl
@[simp] theorem forgetKsg_aLen : s.forgetKsg.aLen = s.aLen := rfl
@[simp] theorem forgetKsg_tPtr : s.forgetKsg.tPtr = s.tPtr := rfl
@[simp] theorem forgetKsg_tLen : s.forgetKsg.tLen = s.tLen := rfl
@[simp] theorem forgetKsg_key : s.forgetKsg.key = s.key := rfl
@[simp] theorem forgetKsg_nonce : s.forgetKsg.nonce = s.nonce := rfl
@[simp] theorem forgetKsg_counter : s.forgetKsg.counter = s.counter := rfl
@[simp] theorem forgetKsg_tag : s.forgetKsg.tag = s.tag := rfl
@[simp] theorem forgetKsg_tagx : s.forgetKsg.tagx = s.tagx := rfl
@[simp] theorem forgetKsg_ks : s.forgetKsg.ks = s.ks := rfl
@[simp] theorem forgetKsg_dmem : s.forgetKsg.dmem = s.dmem := rfl
@[simp] theorem forgetKsg_mac : s.forgetKsg.mac = s.mac := rfl
@[simp] theorem forgetKsg_ksgX : s.forgetKsg.ksgX = Config.freeMatrix s.fresh := rfl
@[simp] theorem forgetKsg_ksgW : s.forgetKsg.ksgW = Config.freeMatrix (s.fresh + 1) := rfl
@[simp] theorem forgetKsg_pend : s.forgetKsg.pend = s.pend := rfl
@[simp] theorem forgetKsg_otk : s.forgetKsg.otk = s.otk := rfl
@[simp] theorem forgetKsg_etag : s.forgetKsg.etag = s.etag := rfl
@[simp] theorem forgetKsg_fresh : s.forgetKsg.fresh = s.fresh + 2 := rfl
@[simp] theorem forgetKsg_delay : s.forgetKsg.delay = s.delay := rfl
@[simp] theorem forgetKsg_lats : s.forgetKsg.lats = s.lats := rfl
@[simp] theorem forgetKsg_inbox : s.forgetKsg.inbox = s.inbox := rfl
@[simp] theorem forgetKsg_readLog : s.forgetKsg.readLog = s.readLog := rfl

/-! `State.aeadZeroize`. -/

@[simp] theorem aeadZeroize_cfg : s.aeadZeroize.cfg = s.cfg := by simp only [State.aeadZeroize]
@[simp] theorem aeadZeroize_ie : s.aeadZeroize.ie = s.ie := by simp only [State.aeadZeroize]
@[simp] theorem aeadZeroize_busy : s.aeadZeroize.busy = s.busy := by simp only [State.aeadZeroize]
@[simp] theorem aeadZeroize_done : s.aeadZeroize.done = s.done := by simp only [State.aeadZeroize]
@[simp] theorem aeadZeroize_eq : s.aeadZeroize.eq = s.eq := by simp only [State.aeadZeroize]
@[simp] theorem aeadZeroize_haz : s.aeadZeroize.haz = s.haz := by simp only [State.aeadZeroize]
@[simp] theorem aeadZeroize_err : s.aeadZeroize.err = s.err := by simp only [State.aeadZeroize]
@[simp] theorem aeadZeroize_aPtr : s.aeadZeroize.aPtr = s.aPtr := by simp only [State.aeadZeroize]
@[simp] theorem aeadZeroize_aLen : s.aeadZeroize.aLen = s.aLen := by simp only [State.aeadZeroize]
@[simp] theorem aeadZeroize_tPtr : s.aeadZeroize.tPtr = s.tPtr := by simp only [State.aeadZeroize]
@[simp] theorem aeadZeroize_tLen : s.aeadZeroize.tLen = s.tLen := by simp only [State.aeadZeroize]
@[simp] theorem aeadZeroize_key : s.aeadZeroize.key = s.key := by simp only [State.aeadZeroize]
@[simp] theorem aeadZeroize_nonce : s.aeadZeroize.nonce = s.nonce := by simp only [State.aeadZeroize]
@[simp] theorem aeadZeroize_counter : s.aeadZeroize.counter = s.counter := by simp only [State.aeadZeroize]
@[simp] theorem aeadZeroize_tag : s.aeadZeroize.tag = s.tag := by simp only [State.aeadZeroize]
@[simp] theorem aeadZeroize_tagx : s.aeadZeroize.tagx = s.tagx := by simp only [State.aeadZeroize]
@[simp] theorem aeadZeroize_ks : s.aeadZeroize.ks = s.ks := by simp only [State.aeadZeroize]
@[simp] theorem aeadZeroize_dmem : s.aeadZeroize.dmem = s.dmem := by simp only [State.aeadZeroize]
@[simp] theorem aeadZeroize_mac : s.aeadZeroize.mac = .zeroized .idle := by simp only [State.aeadZeroize]
@[simp] theorem aeadZeroize_ksgX : s.aeadZeroize.ksgX = .replicate 16 0#32 := by simp only [State.aeadZeroize]
@[simp] theorem aeadZeroize_ksgW : s.aeadZeroize.ksgW = .replicate 16 0#32 := by simp only [State.aeadZeroize]
@[simp] theorem aeadZeroize_pend : s.aeadZeroize.pend = s.pend := by simp only [State.aeadZeroize]
@[simp] theorem aeadZeroize_otk : s.aeadZeroize.otk = .replicate 32 0#8 := by simp only [State.aeadZeroize]
@[simp] theorem aeadZeroize_etag : s.aeadZeroize.etag = .replicate 16 0#8 := by simp only [State.aeadZeroize]
@[simp] theorem aeadZeroize_fresh : s.aeadZeroize.fresh = s.fresh := by simp only [State.aeadZeroize]
@[simp] theorem aeadZeroize_delay : s.aeadZeroize.delay = s.delay := by simp only [State.aeadZeroize]
@[simp] theorem aeadZeroize_lats : s.aeadZeroize.lats = s.lats := by simp only [State.aeadZeroize]
@[simp] theorem aeadZeroize_inbox : s.aeadZeroize.inbox = s.inbox := by simp only [State.aeadZeroize]
@[simp] theorem aeadZeroize_readLog : s.aeadZeroize.readLog = s.readLog := by simp only [State.aeadZeroize]

/-! `State.deriveOtk`. -/

@[simp] theorem deriveOtk_cfg : s.deriveOtk.cfg = s.cfg := by simp only [State.deriveOtk]
@[simp] theorem deriveOtk_ie : s.deriveOtk.ie = s.ie := by simp only [State.deriveOtk]
@[simp] theorem deriveOtk_busy : s.deriveOtk.busy = s.busy := by simp only [State.deriveOtk]
@[simp] theorem deriveOtk_done : s.deriveOtk.done = s.done := by simp only [State.deriveOtk]
@[simp] theorem deriveOtk_eq : s.deriveOtk.eq = s.eq := by simp only [State.deriveOtk]
@[simp] theorem deriveOtk_haz : s.deriveOtk.haz = s.haz := by simp only [State.deriveOtk]
@[simp] theorem deriveOtk_err : s.deriveOtk.err = s.err := by simp only [State.deriveOtk]
@[simp] theorem deriveOtk_aPtr : s.deriveOtk.aPtr = s.aPtr := by simp only [State.deriveOtk]
@[simp] theorem deriveOtk_aLen : s.deriveOtk.aLen = s.aLen := by simp only [State.deriveOtk]
@[simp] theorem deriveOtk_tPtr : s.deriveOtk.tPtr = s.tPtr := by simp only [State.deriveOtk]
@[simp] theorem deriveOtk_tLen : s.deriveOtk.tLen = s.tLen := by simp only [State.deriveOtk]
@[simp] theorem deriveOtk_key : s.deriveOtk.key = s.key := by simp only [State.deriveOtk]
@[simp] theorem deriveOtk_nonce : s.deriveOtk.nonce = s.nonce := by simp only [State.deriveOtk]
@[simp] theorem deriveOtk_counter : s.deriveOtk.counter = s.counter := by simp only [State.deriveOtk]
@[simp] theorem deriveOtk_tag : s.deriveOtk.tag = s.tag := by simp only [State.deriveOtk]
@[simp] theorem deriveOtk_tagx : s.deriveOtk.tagx = s.tagx := by simp only [State.deriveOtk]
@[simp] theorem deriveOtk_ks : s.deriveOtk.ks = s.ks := by simp only [State.deriveOtk]
@[simp] theorem deriveOtk_dmem : s.deriveOtk.dmem = s.dmem := by simp only [State.deriveOtk]
@[simp] theorem deriveOtk_mac : s.deriveOtk.mac = s.mac := by simp only [State.deriveOtk]
@[simp] theorem deriveOtk_ksgX : s.deriveOtk.ksgX = s.ksgX := by simp only [State.deriveOtk]
@[simp] theorem deriveOtk_ksgW : s.deriveOtk.ksgW = s.ksgW := by simp only [State.deriveOtk]
@[simp] theorem deriveOtk_pend : s.deriveOtk.pend = s.pend := by simp only [State.deriveOtk]
@[simp] theorem deriveOtk_otk : s.deriveOtk.otk = bytesStore 32 (oneTimeKey s.keyBytes s.nonceBytes) := by simp only [State.deriveOtk]
@[simp] theorem deriveOtk_etag : s.deriveOtk.etag = s.etag := by simp only [State.deriveOtk]
@[simp] theorem deriveOtk_fresh : s.deriveOtk.fresh = s.fresh := by simp only [State.deriveOtk]
@[simp] theorem deriveOtk_delay : s.deriveOtk.delay = s.delay := by simp only [State.deriveOtk]
@[simp] theorem deriveOtk_lats : s.deriveOtk.lats = s.lats := by simp only [State.deriveOtk]
@[simp] theorem deriveOtk_inbox : s.deriveOtk.inbox = s.inbox := by simp only [State.deriveOtk]
@[simp] theorem deriveOtk_readLog : s.deriveOtk.readLog = s.readLog := by simp only [State.deriveOtk]

/-! `State.authenticate`. -/

@[simp] theorem authenticate_cfg (A C : List Byte) : (s.authenticate A C).cfg = s.cfg := by simp only [State.authenticate, deriveOtk_cfg]
@[simp] theorem authenticate_ie (A C : List Byte) : (s.authenticate A C).ie = s.ie := by simp only [State.authenticate, deriveOtk_ie]
@[simp] theorem authenticate_busy (A C : List Byte) : (s.authenticate A C).busy = s.busy := by simp only [State.authenticate, deriveOtk_busy]
@[simp] theorem authenticate_done (A C : List Byte) : (s.authenticate A C).done = s.done := by simp only [State.authenticate, deriveOtk_done]
@[simp] theorem authenticate_eq (A C : List Byte) : (s.authenticate A C).eq = s.eq := by simp only [State.authenticate, deriveOtk_eq]
@[simp] theorem authenticate_haz (A C : List Byte) : (s.authenticate A C).haz = s.haz := by simp only [State.authenticate, deriveOtk_haz]
@[simp] theorem authenticate_err (A C : List Byte) : (s.authenticate A C).err = s.err := by simp only [State.authenticate, deriveOtk_err]
@[simp] theorem authenticate_aPtr (A C : List Byte) : (s.authenticate A C).aPtr = s.aPtr := by simp only [State.authenticate, deriveOtk_aPtr]
@[simp] theorem authenticate_aLen (A C : List Byte) : (s.authenticate A C).aLen = s.aLen := by simp only [State.authenticate, deriveOtk_aLen]
@[simp] theorem authenticate_tPtr (A C : List Byte) : (s.authenticate A C).tPtr = s.tPtr := by simp only [State.authenticate, deriveOtk_tPtr]
@[simp] theorem authenticate_tLen (A C : List Byte) : (s.authenticate A C).tLen = s.tLen := by simp only [State.authenticate, deriveOtk_tLen]
@[simp] theorem authenticate_key (A C : List Byte) : (s.authenticate A C).key = s.key := by simp only [State.authenticate, deriveOtk_key]
@[simp] theorem authenticate_nonce (A C : List Byte) : (s.authenticate A C).nonce = s.nonce := by simp only [State.authenticate, deriveOtk_nonce]
@[simp] theorem authenticate_counter (A C : List Byte) : (s.authenticate A C).counter = s.counter := by simp only [State.authenticate, deriveOtk_counter]
@[simp] theorem authenticate_tag (A C : List Byte) : (s.authenticate A C).tag = s.tag := by simp only [State.authenticate, deriveOtk_tag]
@[simp] theorem authenticate_tagx (A C : List Byte) : (s.authenticate A C).tagx = s.tagx := by simp only [State.authenticate, deriveOtk_tagx]
@[simp] theorem authenticate_ks (A C : List Byte) : (s.authenticate A C).ks = s.ks := by simp only [State.authenticate, deriveOtk_ks]
@[simp] theorem authenticate_dmem (A C : List Byte) : (s.authenticate A C).dmem = s.dmem := by simp only [State.authenticate, deriveOtk_dmem]
@[simp] theorem authenticate_mac (A C : List Byte) : (s.authenticate A C).mac = absorbTranscript (macInit s.deriveOtk.otk.toList) A C := by simp only [State.authenticate]
@[simp] theorem authenticate_ksgX (A C : List Byte) : (s.authenticate A C).ksgX = s.ksgX := by simp only [State.authenticate, deriveOtk_ksgX]
@[simp] theorem authenticate_ksgW (A C : List Byte) : (s.authenticate A C).ksgW = s.ksgW := by simp only [State.authenticate, deriveOtk_ksgW]
@[simp] theorem authenticate_pend (A C : List Byte) : (s.authenticate A C).pend = s.pend := by simp only [State.authenticate, deriveOtk_pend]
@[simp] theorem authenticate_otk (A C : List Byte) : (s.authenticate A C).otk = s.deriveOtk.otk := by simp only [State.authenticate]
@[simp] theorem authenticate_etag (A C : List Byte) : (s.authenticate A C).etag = s.etag := by simp only [State.authenticate, deriveOtk_etag]
@[simp] theorem authenticate_fresh (A C : List Byte) : (s.authenticate A C).fresh = s.fresh := by simp only [State.authenticate, deriveOtk_fresh]
@[simp] theorem authenticate_delay (A C : List Byte) : (s.authenticate A C).delay = s.delay := by simp only [State.authenticate, deriveOtk_delay]
@[simp] theorem authenticate_lats (A C : List Byte) : (s.authenticate A C).lats = s.lats := by simp only [State.authenticate, deriveOtk_lats]
@[simp] theorem authenticate_inbox (A C : List Byte) : (s.authenticate A C).inbox = s.inbox := by simp only [State.authenticate, deriveOtk_inbox]
@[simp] theorem authenticate_readLog (A C : List Byte) : (s.authenticate A C).readLog = s.readLog := by simp only [State.authenticate, deriveOtk_readLog]

/-! `State.clearRegisters`. -/

@[simp] theorem clearRegisters_cfg : s.clearRegisters.cfg = s.cfg := rfl
@[simp] theorem clearRegisters_ie : s.clearRegisters.ie = s.ie := rfl
@[simp] theorem clearRegisters_busy : s.clearRegisters.busy = s.busy := rfl
@[simp] theorem clearRegisters_done : s.clearRegisters.done = s.done := rfl
@[simp] theorem clearRegisters_eq : s.clearRegisters.eq = false := rfl
@[simp] theorem clearRegisters_haz : s.clearRegisters.haz = s.haz := rfl
@[simp] theorem clearRegisters_err : s.clearRegisters.err = s.err := rfl
@[simp] theorem clearRegisters_aPtr : s.clearRegisters.aPtr = 0#32 := rfl
@[simp] theorem clearRegisters_aLen : s.clearRegisters.aLen = 0#32 := rfl
@[simp] theorem clearRegisters_tPtr : s.clearRegisters.tPtr = 0#32 := rfl
@[simp] theorem clearRegisters_tLen : s.clearRegisters.tLen = 0#32 := rfl
@[simp] theorem clearRegisters_key : s.clearRegisters.key = .replicate 8 0#32 := rfl
@[simp] theorem clearRegisters_nonce : s.clearRegisters.nonce = .replicate 3 0#32 := rfl
@[simp] theorem clearRegisters_counter : s.clearRegisters.counter = 0#32 := rfl
@[simp] theorem clearRegisters_tag : s.clearRegisters.tag = .replicate 4 0#32 := rfl
@[simp] theorem clearRegisters_tagx : s.clearRegisters.tagx = .replicate 4 0#32 := rfl
@[simp] theorem clearRegisters_ks : s.clearRegisters.ks = .replicate 16 0#32 := rfl
@[simp] theorem clearRegisters_dmem : s.clearRegisters.dmem = s.dmem := rfl
@[simp] theorem clearRegisters_mac : s.clearRegisters.mac = .zeroized .idle := rfl
@[simp] theorem clearRegisters_ksgX : s.clearRegisters.ksgX = .replicate 16 0#32 := rfl
@[simp] theorem clearRegisters_ksgW : s.clearRegisters.ksgW = .replicate 16 0#32 := rfl
@[simp] theorem clearRegisters_pend : s.clearRegisters.pend = s.pend := rfl
@[simp] theorem clearRegisters_otk : s.clearRegisters.otk = .replicate 32 0#8 := rfl
@[simp] theorem clearRegisters_etag : s.clearRegisters.etag = .replicate 16 0#8 := rfl
@[simp] theorem clearRegisters_fresh : s.clearRegisters.fresh = s.fresh := rfl
@[simp] theorem clearRegisters_delay : s.clearRegisters.delay = s.delay := rfl
@[simp] theorem clearRegisters_lats : s.clearRegisters.lats = s.lats := rfl
@[simp] theorem clearRegisters_inbox : s.clearRegisters.inbox = s.inbox := rfl
@[simp] theorem clearRegisters_readLog : s.clearRegisters.readLog = s.readLog := rfl

/-! `State.resetNow`. -/

@[simp] theorem resetNow_cfg : s.resetNow.cfg = s.cfg := rfl
@[simp] theorem resetNow_ie : s.resetNow.ie = false := rfl
@[simp] theorem resetNow_busy : s.resetNow.busy = false := rfl
@[simp] theorem resetNow_done : s.resetNow.done = false := rfl
@[simp] theorem resetNow_eq : s.resetNow.eq = false := rfl
@[simp] theorem resetNow_haz : s.resetNow.haz = false := rfl
@[simp] theorem resetNow_err : s.resetNow.err = .ok := rfl
@[simp] theorem resetNow_aPtr : s.resetNow.aPtr = 0#32 := rfl
@[simp] theorem resetNow_aLen : s.resetNow.aLen = 0#32 := rfl
@[simp] theorem resetNow_tPtr : s.resetNow.tPtr = 0#32 := rfl
@[simp] theorem resetNow_tLen : s.resetNow.tLen = 0#32 := rfl
@[simp] theorem resetNow_key : s.resetNow.key = .replicate 8 0#32 := rfl
@[simp] theorem resetNow_nonce : s.resetNow.nonce = .replicate 3 0#32 := rfl
@[simp] theorem resetNow_counter : s.resetNow.counter = 0#32 := rfl
@[simp] theorem resetNow_tag : s.resetNow.tag = .replicate 4 0#32 := rfl
@[simp] theorem resetNow_tagx : s.resetNow.tagx = .replicate 4 0#32 := rfl
@[simp] theorem resetNow_ks : s.resetNow.ks = .replicate 16 0#32 := rfl
@[simp] theorem resetNow_dmem : s.resetNow.dmem = [] := rfl
@[simp] theorem resetNow_mac : s.resetNow.mac = .zeroized .idle := rfl
@[simp] theorem resetNow_ksgX : s.resetNow.ksgX = .replicate 16 0#32 := rfl
@[simp] theorem resetNow_ksgW : s.resetNow.ksgW = .replicate 16 0#32 := rfl
@[simp] theorem resetNow_pend : s.resetNow.pend = 0#32 := rfl
@[simp] theorem resetNow_otk : s.resetNow.otk = .replicate 32 0#8 := rfl
@[simp] theorem resetNow_etag : s.resetNow.etag = .replicate 16 0#8 := rfl
@[simp] theorem resetNow_fresh : s.resetNow.fresh = s.fresh := rfl
@[simp] theorem resetNow_delay : s.resetNow.delay = 0 := rfl
@[simp] theorem resetNow_lats : s.resetNow.lats = s.lats := rfl
@[simp] theorem resetNow_inbox : s.resetNow.inbox = s.inbox := rfl
@[simp] theorem resetNow_readLog : s.resetNow.readLog = s.readLog := rfl

/-! `State.resetWith`: the values 70_reset_and_hazards.md R321 to R323 give. -/

@[simp] theorem resetWith_cfg (c : Config) : (State.resetWith c).cfg = c := rfl
@[simp] theorem resetWith_ie (c : Config) : (State.resetWith c).ie = false := rfl
@[simp] theorem resetWith_busy (c : Config) : (State.resetWith c).busy = false := rfl
@[simp] theorem resetWith_done (c : Config) : (State.resetWith c).done = false := rfl
@[simp] theorem resetWith_eq (c : Config) : (State.resetWith c).eq = false := rfl
@[simp] theorem resetWith_haz (c : Config) : (State.resetWith c).haz = false := rfl
@[simp] theorem resetWith_err (c : Config) : (State.resetWith c).err = .ok := rfl
@[simp] theorem resetWith_aPtr (c : Config) : (State.resetWith c).aPtr = 0#32 := rfl
@[simp] theorem resetWith_aLen (c : Config) : (State.resetWith c).aLen = 0#32 := rfl
@[simp] theorem resetWith_tPtr (c : Config) : (State.resetWith c).tPtr = 0#32 := rfl
@[simp] theorem resetWith_tLen (c : Config) : (State.resetWith c).tLen = 0#32 := rfl
@[simp] theorem resetWith_key (c : Config) : (State.resetWith c).key = .replicate 8 0#32 := rfl
@[simp] theorem resetWith_nonce (c : Config) : (State.resetWith c).nonce = .replicate 3 0#32 := rfl
@[simp] theorem resetWith_counter (c : Config) : (State.resetWith c).counter = 0#32 := rfl
@[simp] theorem resetWith_tag (c : Config) : (State.resetWith c).tag = .replicate 4 0#32 := rfl
@[simp] theorem resetWith_tagx (c : Config) : (State.resetWith c).tagx = .replicate 4 0#32 := rfl
@[simp] theorem resetWith_ks (c : Config) : (State.resetWith c).ks = .replicate 16 0#32 := rfl
@[simp] theorem resetWith_dmem (c : Config) : (State.resetWith c).dmem = [] := rfl
@[simp] theorem resetWith_mac (c : Config) : (State.resetWith c).mac = .zeroized .idle := rfl
@[simp] theorem resetWith_ksgX (c : Config) : (State.resetWith c).ksgX = .replicate 16 0#32 := rfl
@[simp] theorem resetWith_ksgW (c : Config) : (State.resetWith c).ksgW = .replicate 16 0#32 := rfl
@[simp] theorem resetWith_pend (c : Config) : (State.resetWith c).pend = 0#32 := rfl
@[simp] theorem resetWith_otk (c : Config) : (State.resetWith c).otk = .replicate 32 0#8 := rfl
@[simp] theorem resetWith_etag (c : Config) : (State.resetWith c).etag = .replicate 16 0#8 := rfl
@[simp] theorem resetWith_fresh (c : Config) : (State.resetWith c).fresh = 0 := rfl
@[simp] theorem resetWith_delay (c : Config) : (State.resetWith c).delay = 0 := rfl
@[simp] theorem resetWith_lats (c : Config) : (State.resetWith c).lats = [] := rfl
@[simp] theorem resetWith_inbox (c : Config) : (State.resetWith c).inbox = [] := rfl
@[simp] theorem resetWith_readLog (c : Config) : (State.resetWith c).readLog = [] := rfl

/-! The operands after the updates that leave the operand registers alone. -/

@[simp] theorem deriveOtk_keyBytes : s.deriveOtk.keyBytes = s.keyBytes := by simp only [State.keyBytes, deriveOtk_key]
@[simp] theorem deriveOtk_nonceBytes : s.deriveOtk.nonceBytes = s.nonceBytes := by simp only [State.nonceBytes, deriveOtk_nonce]
@[simp] theorem authenticate_keyBytes (A C : List Byte) : (s.authenticate A C).keyBytes = s.keyBytes := by
  simp only [State.keyBytes, authenticate_key]
@[simp] theorem authenticate_nonceBytes (A C : List Byte) : (s.authenticate A C).nonceBytes = s.nonceBytes := by
  simp only [State.nonceBytes, authenticate_nonce]
@[simp] theorem authenticate_tagBytes (A C : List Byte) : (s.authenticate A C).tagBytes = s.tagBytes := by
  simp only [State.tagBytes, authenticate_tag]
@[simp] theorem setEtag_keyBytes (T : List Byte) : (s.setEtag T).keyBytes = s.keyBytes := by
  simp only [State.keyBytes, setEtag_key]
@[simp] theorem setEtag_nonceBytes (T : List Byte) : (s.setEtag T).nonceBytes = s.nonceBytes := by
  simp only [State.nonceBytes, setEtag_nonce]
@[simp] theorem setEq_keyBytes (b : Bool) : (s.setEq b).keyBytes = s.keyBytes := rfl
@[simp] theorem setEq_nonceBytes (b : Bool) : (s.setEq b).nonceBytes = s.nonceBytes := rfl
@[simp] theorem setEtag_tagBytes (T : List Byte) : (s.setEtag T).tagBytes = s.tagBytes := by
  simp only [State.tagBytes, setEtag_tag]
@[simp] theorem memWrite_keyBytes (a : Nat) (B : List Byte) : (s.memWrite a B).keyBytes = s.keyBytes := rfl
@[simp] theorem memWrite_nonceBytes (a : Nat) (B : List Byte) : (s.memWrite a B).nonceBytes = s.nonceBytes := rfl

end Sys2Proof.Machine
end

