-- ==== Sys2Proof/Laws/Exec.lean ====
section
/-! SUPPORT. For every command, once: everything its meaning can answer. -/

namespace Sys2Proof.Machine

/-! The checks. -/

theorem regionValid_iff (s : State) (P L : Word) : s.regionValid P L = true ↔ P.toNat + L.toNat ≤ s.cfg.dmemBytes := by
  simp [State.regionValid]

theorem regionsOverlap_iff (s : State) :
    s.regionsOverlap = true ↔ 0 < s.aLen.toNat ∧ 0 < s.tLen.toNat ∧ s.aPtr.toNat < s.tPtr.toNat + s.tLen.toNat ∧
      s.tPtr.toNat < s.aPtr.toNat + s.aLen.toNat := by
  simp [State.regionsOverlap]

theorem macUpdateCheck_eq_none_iff (s : State) :
    s.macUpdateCheck = none ↔ s.mac.st = .active ∧ s.regionValid s.tPtr s.tLen = true := by
  unfold State.macUpdateCheck
  split <;> simp_all

theorem macFinalCheck_eq_none_iff (s : State) : s.macFinalCheck = none ↔ s.mac.st = .active := by
  unfold State.macFinalCheck
  split <;> simp_all

theorem aeadCheck_eq_none_iff (s : State) :
    s.aeadCheck = none ↔ s.regionValid s.aPtr s.aLen = true ∧ s.regionValid s.tPtr s.tLen = true ∧
      s.regionsOverlap = false := by
  unfold State.aeadCheck
  split
  · simp_all
  · split
    · simp_all
    · split <;> simp_all

theorem macUpdateCheck_code {s : State} {c : Code} (h : s.macUpdateCheck = some c) : c = .eMacState ∨ c = .eRange := by
  unfold State.macUpdateCheck at h
  split at h
  · exact .inl (by simpa using h.symm)
  · split at h
    · exact .inr (by simpa using h.symm)
    · simp at h

theorem macFinalCheck_code {s : State} {c : Code} (h : s.macFinalCheck = some c) : c = .eMacState := by
  unfold State.macFinalCheck at h
  split at h
  · simpa using h.symm
  · simp at h

theorem aeadCheck_code {s : State} {c : Code} (h : s.aeadCheck = some c) : c = .eRange ∨ c = .eOverlap := by
  unfold State.aeadCheck at h
  split at h
  · exact .inl (by simpa using h.symm)
  · split at h
    · exact .inl (by simpa using h.symm)
    · split at h
      · exact .inr (by simpa using h.symm)
      · simp at h

/-! AEAD_ENC and AEAD_DEC past their checks, as one record update. -/

/-- The state after AEAD_ENC, in one piece (42_aead.md R206, R208). -/
def State.sealed (A P : List Byte) (s : State) : State :=
  { s with
    dmem := s.dmem.write s.textAddr (keyStreamXor s.keyBytes s.nonceBytes P)
    tag := bytesWords 4 (aeadTag s.keyBytes s.nonceBytes A (keyStreamXor s.keyBytes s.nonceBytes P))
    otk := .replicate 32 0#8, etag := .replicate 16 0#8, mac := .zeroized .idle
    ksgX := .replicate 16 0#32, ksgW := .replicate 16 0#32
    err := .ok, busy := false, done := true, pend := 0#32, delay := 0 }

/-- The state after an AEAD_DEC that found the tag authentic, in one piece (42_aead.md R207, R208). -/
def State.opened (C : List Byte) (s : State) : State :=
  { s with
    dmem := s.dmem.write s.textAddr (keyStreamXor s.keyBytes s.nonceBytes C)
    eq := true, otk := .replicate 32 0#8, etag := .replicate 16 0#8, mac := .zeroized .idle
    ksgX := .replicate 16 0#32, ksgW := .replicate 16 0#32
    err := .ok, busy := false, done := true, pend := 0#32, delay := 0 }

/-- The state after an AEAD_DEC that found the tag not authentic, in one piece (42_aead.md R207, R208). -/
def State.rejected (s : State) : State :=
  { s with
    eq := false, otk := .replicate 32 0#8, etag := .replicate 16 0#8, mac := .zeroized .idle
    ksgX := .replicate 16 0#32, ksgW := .replicate 16 0#32
    err := .eAuth, busy := false, done := true, pend := 0#32, delay := 0 }

/-! The fields of these three states. -/

@[simp] theorem sealed_cfg (s : State) (A P : List Byte) : (s.sealed A P).cfg = s.cfg := rfl
@[simp] theorem sealed_ie (s : State) (A P : List Byte) : (s.sealed A P).ie = s.ie := rfl
@[simp] theorem sealed_busy (s : State) (A P : List Byte) : (s.sealed A P).busy = false := rfl
@[simp] theorem sealed_done (s : State) (A P : List Byte) : (s.sealed A P).done = true := rfl
@[simp] theorem sealed_eq (s : State) (A P : List Byte) : (s.sealed A P).eq = s.eq := rfl
@[simp] theorem sealed_haz (s : State) (A P : List Byte) : (s.sealed A P).haz = s.haz := rfl
@[simp] theorem sealed_err (s : State) (A P : List Byte) : (s.sealed A P).err = .ok := rfl
@[simp] theorem sealed_aPtr (s : State) (A P : List Byte) : (s.sealed A P).aPtr = s.aPtr := rfl
@[simp] theorem sealed_aLen (s : State) (A P : List Byte) : (s.sealed A P).aLen = s.aLen := rfl
@[simp] theorem sealed_tPtr (s : State) (A P : List Byte) : (s.sealed A P).tPtr = s.tPtr := rfl
@[simp] theorem sealed_tLen (s : State) (A P : List Byte) : (s.sealed A P).tLen = s.tLen := rfl
@[simp] theorem sealed_key (s : State) (A P : List Byte) : (s.sealed A P).key = s.key := rfl
@[simp] theorem sealed_nonce (s : State) (A P : List Byte) : (s.sealed A P).nonce = s.nonce := rfl
@[simp] theorem sealed_counter (s : State) (A P : List Byte) : (s.sealed A P).counter = s.counter := rfl
@[simp] theorem sealed_tag (s : State) (A P : List Byte) : (s.sealed A P).tag =
    bytesWords 4 (aeadTag s.keyBytes s.nonceBytes A (keyStreamXor s.keyBytes s.nonceBytes P)) := rfl
@[simp] theorem sealed_tagx (s : State) (A P : List Byte) : (s.sealed A P).tagx = s.tagx := rfl
@[simp] theorem sealed_ks (s : State) (A P : List Byte) : (s.sealed A P).ks = s.ks := rfl
@[simp] theorem sealed_dmem (s : State) (A P : List Byte) : (s.sealed A P).dmem =
    s.dmem.write s.textAddr (keyStreamXor s.keyBytes s.nonceBytes P) := rfl
@[simp] theorem sealed_mac (s : State) (A P : List Byte) : (s.sealed A P).mac = .zeroized .idle := rfl
@[simp] theorem sealed_ksgX (s : State) (A P : List Byte) : (s.sealed A P).ksgX = .replicate 16 0#32 := rfl
@[simp] theorem sealed_ksgW (s : State) (A P : List Byte) : (s.sealed A P).ksgW = .replicate 16 0#32 := rfl
@[simp] theorem sealed_pend (s : State) (A P : List Byte) : (s.sealed A P).pend = 0#32 := rfl
@[simp] theorem sealed_otk (s : State) (A P : List Byte) : (s.sealed A P).otk = .replicate 32 0#8 := rfl
@[simp] theorem sealed_etag (s : State) (A P : List Byte) : (s.sealed A P).etag = .replicate 16 0#8 := rfl
@[simp] theorem sealed_fresh (s : State) (A P : List Byte) : (s.sealed A P).fresh = s.fresh := rfl
@[simp] theorem sealed_delay (s : State) (A P : List Byte) : (s.sealed A P).delay = 0 := rfl
@[simp] theorem sealed_lats (s : State) (A P : List Byte) : (s.sealed A P).lats = s.lats := rfl
@[simp] theorem sealed_inbox (s : State) (A P : List Byte) : (s.sealed A P).inbox = s.inbox := rfl
@[simp] theorem sealed_readLog (s : State) (A P : List Byte) : (s.sealed A P).readLog = s.readLog := rfl

@[simp] theorem opened_cfg (s : State) (C : List Byte) : (s.opened C).cfg = s.cfg := rfl
@[simp] theorem opened_ie (s : State) (C : List Byte) : (s.opened C).ie = s.ie := rfl
@[simp] theorem opened_busy (s : State) (C : List Byte) : (s.opened C).busy = false := rfl
@[simp] theorem opened_done (s : State) (C : List Byte) : (s.opened C).done = true := rfl
@[simp] theorem opened_eq (s : State) (C : List Byte) : (s.opened C).eq = true := rfl
@[simp] theorem opened_haz (s : State) (C : List Byte) : (s.opened C).haz = s.haz := rfl
@[simp] theorem opened_err (s : State) (C : List Byte) : (s.opened C).err = .ok := rfl
@[simp] theorem opened_aPtr (s : State) (C : List Byte) : (s.opened C).aPtr = s.aPtr := rfl
@[simp] theorem opened_aLen (s : State) (C : List Byte) : (s.opened C).aLen = s.aLen := rfl
@[simp] theorem opened_tPtr (s : State) (C : List Byte) : (s.opened C).tPtr = s.tPtr := rfl
@[simp] theorem opened_tLen (s : State) (C : List Byte) : (s.opened C).tLen = s.tLen := rfl
@[simp] theorem opened_key (s : State) (C : List Byte) : (s.opened C).key = s.key := rfl
@[simp] theorem opened_nonce (s : State) (C : List Byte) : (s.opened C).nonce = s.nonce := rfl
@[simp] theorem opened_counter (s : State) (C : List Byte) : (s.opened C).counter = s.counter := rfl
@[simp] theorem opened_tag (s : State) (C : List Byte) : (s.opened C).tag = s.tag := rfl
@[simp] theorem opened_tagx (s : State) (C : List Byte) : (s.opened C).tagx = s.tagx := rfl
@[simp] theorem opened_ks (s : State) (C : List Byte) : (s.opened C).ks = s.ks := rfl
@[simp] theorem opened_dmem (s : State) (C : List Byte) : (s.opened C).dmem =
    s.dmem.write s.textAddr (keyStreamXor s.keyBytes s.nonceBytes C) := rfl
@[simp] theorem opened_mac (s : State) (C : List Byte) : (s.opened C).mac = .zeroized .idle := rfl
@[simp] theorem opened_ksgX (s : State) (C : List Byte) : (s.opened C).ksgX = .replicate 16 0#32 := rfl
@[simp] theorem opened_ksgW (s : State) (C : List Byte) : (s.opened C).ksgW = .replicate 16 0#32 := rfl
@[simp] theorem opened_pend (s : State) (C : List Byte) : (s.opened C).pend = 0#32 := rfl
@[simp] theorem opened_otk (s : State) (C : List Byte) : (s.opened C).otk = .replicate 32 0#8 := rfl
@[simp] theorem opened_etag (s : State) (C : List Byte) : (s.opened C).etag = .replicate 16 0#8 := rfl
@[simp] theorem opened_fresh (s : State) (C : List Byte) : (s.opened C).fresh = s.fresh := rfl
@[simp] theorem opened_delay (s : State) (C : List Byte) : (s.opened C).delay = 0 := rfl
@[simp] theorem opened_lats (s : State) (C : List Byte) : (s.opened C).lats = s.lats := rfl
@[simp] theorem opened_inbox (s : State) (C : List Byte) : (s.opened C).inbox = s.inbox := rfl
@[simp] theorem opened_readLog (s : State) (C : List Byte) : (s.opened C).readLog = s.readLog := rfl

@[simp] theorem rejected_cfg (s : State) : s.rejected.cfg = s.cfg := rfl
@[simp] theorem rejected_ie (s : State) : s.rejected.ie = s.ie := rfl
@[simp] theorem rejected_busy (s : State) : s.rejected.busy = false := rfl
@[simp] theorem rejected_done (s : State) : s.rejected.done = true := rfl
@[simp] theorem rejected_eq (s : State) : s.rejected.eq = false := rfl
@[simp] theorem rejected_haz (s : State) : s.rejected.haz = s.haz := rfl
@[simp] theorem rejected_err (s : State) : s.rejected.err = .eAuth := rfl
@[simp] theorem rejected_aPtr (s : State) : s.rejected.aPtr = s.aPtr := rfl
@[simp] theorem rejected_aLen (s : State) : s.rejected.aLen = s.aLen := rfl
@[simp] theorem rejected_tPtr (s : State) : s.rejected.tPtr = s.tPtr := rfl
@[simp] theorem rejected_tLen (s : State) : s.rejected.tLen = s.tLen := rfl
@[simp] theorem rejected_key (s : State) : s.rejected.key = s.key := rfl
@[simp] theorem rejected_nonce (s : State) : s.rejected.nonce = s.nonce := rfl
@[simp] theorem rejected_counter (s : State) : s.rejected.counter = s.counter := rfl
@[simp] theorem rejected_tag (s : State) : s.rejected.tag = s.tag := rfl
@[simp] theorem rejected_tagx (s : State) : s.rejected.tagx = s.tagx := rfl
@[simp] theorem rejected_ks (s : State) : s.rejected.ks = s.ks := rfl
@[simp] theorem rejected_dmem (s : State) : s.rejected.dmem = s.dmem := rfl
@[simp] theorem rejected_mac (s : State) : s.rejected.mac = .zeroized .idle := rfl
@[simp] theorem rejected_ksgX (s : State) : s.rejected.ksgX = .replicate 16 0#32 := rfl
@[simp] theorem rejected_ksgW (s : State) : s.rejected.ksgW = .replicate 16 0#32 := rfl
@[simp] theorem rejected_pend (s : State) : s.rejected.pend = 0#32 := rfl
@[simp] theorem rejected_otk (s : State) : s.rejected.otk = .replicate 32 0#8 := rfl
@[simp] theorem rejected_etag (s : State) : s.rejected.etag = .replicate 16 0#8 := rfl
@[simp] theorem rejected_fresh (s : State) : s.rejected.fresh = s.fresh := rfl
@[simp] theorem rejected_delay (s : State) : s.rejected.delay = 0 := rfl
@[simp] theorem rejected_lats (s : State) : s.rejected.lats = s.lats := rfl
@[simp] theorem rejected_inbox (s : State) : s.rejected.inbox = s.inbox := rfl
@[simp] theorem rejected_readLog (s : State) : s.rejected.readLog = s.readLog := rfl

theorem sealText_eq (s : State) (A P : List Byte) : s.sealText A P = s.sealed A P := by
  apply State.ext <;> simp [State.sealText, State.sealed, aeadTag]

/-- The comparison of AEAD_DEC is that of the expected tag with TAG (42_aead.md R207). -/
theorem openText_eq (s : State) (A C : List Byte) :
    s.openText A C = if ctEq (aeadTag s.keyBytes s.nonceBytes A C) s.tagBytes then s.opened C else s.rejected := by
  have hok : ctEq ((s.authenticate A C).setEtag (s.authenticate A C).mac.finalTag).etag.toList
      ((s.authenticate A C).setEtag (s.authenticate A C).mac.finalTag).tagBytes =
      ctEq (aeadTag s.keyBytes s.nonceBytes A C) s.tagBytes := by
    simp [aeadTag]
  simp only [State.openText, hok]
  split
  · rename_i h
    apply State.ext <;> simp [State.textAddr, State.opened, h]
  · rename_i h
    apply State.ext <;> simp [State.rejected, h]

/-! What each meaning answers. -/

theorem execMacUpdate_next {s t : State} (h : execMacUpdate s = .next t) :
    (∃ c, s.macUpdateCheck = some c ∧ t = s.complete c) ∨
      (s.macUpdateCheck = none ∧ ∃ D, s.readT = some D ∧ t = { s with mac := macAbsorb s.mac D }.complete .ok) := by
  unfold execMacUpdate at h
  split at h
  · rename_i c hc
    exact .inl ⟨c, hc, (by simpa using h.symm)⟩
  · split at h
    · simp at h
    · rename_i hc _ D hD
      exact .inr ⟨hc, D, hD, (Host.Outcome.next.inj h).symm⟩

theorem execMacFinal_next {s t : State} (h : execMacFinal s = .next t) :
    (∃ c, s.macFinalCheck = some c ∧ t = s.complete c) ∨
      (s.macFinalCheck = none ∧
        t = ({ s.setTag s.mac.finalTag with mac := .zeroized .finalized }).complete .ok) := by
  unfold execMacFinal at h
  split at h
  · rename_i c hc
    exact .inl ⟨c, hc, (by simpa using h.symm)⟩
  · rename_i hc
    exact .inr ⟨hc, (Host.Outcome.next.inj h).symm⟩

theorem execAeadEnc_next {s t : State} (h : execAeadEnc s = .next t) :
    (∃ c, s.aeadCheck = some c ∧ t = s.complete c) ∨
      (s.aeadCheck = none ∧ ∃ A P, s.readA = some A ∧ s.readT = some P ∧ t = s.sealed A P) := by
  unfold execAeadEnc at h
  split at h
  · rename_i c hc
    exact .inl ⟨c, hc, (by simpa using h.symm)⟩
  · split at h
    · rename_i hc _ _ A P hA hP
      exact .inr ⟨hc, A, P, hA, hP, (Host.Outcome.next.inj h).symm.trans (sealText_eq s A P)⟩
    · simp at h

theorem execAeadDec_next {s t : State} (h : execAeadDec s = .next t) :
    (∃ c, s.aeadCheck = some c ∧ t = s.complete c) ∨
      (s.aeadCheck = none ∧ ∃ A C, s.readA = some A ∧ s.readT = some C ∧
        ((ctEq (aeadTag s.keyBytes s.nonceBytes A C) s.tagBytes = true ∧ t = s.opened C) ∨
          (ctEq (aeadTag s.keyBytes s.nonceBytes A C) s.tagBytes = false ∧ t = s.rejected))) := by
  unfold execAeadDec at h
  split at h
  · rename_i c hc
    exact .inl ⟨c, hc, (by simpa using h.symm)⟩
  · split at h
    · rename_i hc _ _ A C hA hC
      have ht := (Host.Outcome.next.inj h).symm.trans (openText_eq s A C)
      refine .inr ⟨hc, A, C, hA, hC, ?_⟩
      by_cases hk : ctEq (aeadTag s.keyBytes s.nonceBytes A C) s.tagBytes = true
      · exact .inl ⟨hk, by rw [ht, if_pos hk]⟩
      · exact .inr ⟨by simpa using hk, by rw [ht, if_neg hk]⟩
    · simp at h

/-! Where the AEAD commands complete. -/

theorem exec_aeadEnc {s : State} {A P : List Byte} (hc : s.aeadCheck = none) (hA : s.readA = some A)
    (hT : s.readT = some P) : exec .aeadEnc s = .next (s.sealed A P) := by
  simp only [exec, execAeadEnc, hc, hA, hT, sealText_eq]

theorem exec_aeadDec {s : State} {A C : List Byte} (hc : s.aeadCheck = none) (hA : s.readA = some A)
    (hT : s.readT = some C) :
    exec .aeadDec s =
      .next (if ctEq (aeadTag s.keyBytes s.nonceBytes A C) s.tagBytes then s.opened C else s.rejected) := by
  simp only [exec, execAeadDec, hc, hA, hT, openText_eq]

/-- Everything a command can answer when it answers a next state: `Effect s i t` says that t is what command i makes of s
(44_control.md R260, R261, 40_keystream.md R129, 41_mac.md R165 to R167, 42_aead.md R206, R207, 43_cteq.md R241). -/
inductive Effect (s : State) : Instr → State → Prop where
  | nop : Effect s .nop (s.complete .ok)
  | ksBlock :
    Effect s .ksBlock (((s.setKs (chachaBlock s.keyBytes s.counter s.nonceBytes)).forgetKsg).complete .ok)
  | macInit : Effect s .macInit ({ s with mac := macInit s.keyBytes }.complete .ok)
  | macUpdateError (c : Code) (hc : s.macUpdateCheck = some c) : Effect s .macUpdate (s.complete c)
  | macUpdate (D : List Byte) (hc : s.macUpdateCheck = none) (hD : s.readT = some D) :
    Effect s .macUpdate ({ s with mac := macAbsorb s.mac D }.complete .ok)
  | macFinalError (c : Code) (hc : s.macFinalCheck = some c) : Effect s .macFinal (s.complete c)
  | macFinal (hc : s.macFinalCheck = none) :
    Effect s .macFinal (({ s.setTag s.mac.finalTag with mac := .zeroized .finalized }).complete .ok)
  | aeadEncError (c : Code) (hc : s.aeadCheck = some c) : Effect s .aeadEnc (s.complete c)
  | aeadEnc (A P : List Byte) (hc : s.aeadCheck = none) (hA : s.readA = some A) (hT : s.readT = some P) :
    Effect s .aeadEnc (s.sealed A P)
  | aeadDecError (c : Code) (hc : s.aeadCheck = some c) : Effect s .aeadDec (s.complete c)
  | aeadDecOpen (A C : List Byte) (hc : s.aeadCheck = none) (hA : s.readA = some A) (hT : s.readT = some C)
    (hk : ctEq (aeadTag s.keyBytes s.nonceBytes A C) s.tagBytes = true) : Effect s .aeadDec (s.opened C)
  | aeadDecReject (A C : List Byte) (hc : s.aeadCheck = none) (hA : s.readA = some A) (hT : s.readT = some C)
    (hk : ctEq (aeadTag s.keyBytes s.nonceBytes A C) s.tagBytes = false) : Effect s .aeadDec s.rejected
  | ctEq : Effect s .ctEq ((s.setEq (Machine.ctEq s.tagBytes s.tagxBytes)).complete .ok)
  | clear : Effect s .clear ((s.clearRegisters).complete .ok)

theorem exec_next {i : Instr} {s t : State} (h : exec i s = .next t) : Effect s i t := by
  cases i with
  | nop =>
    obtain rfl := Host.Outcome.next.inj h
    exact .nop
  | ksBlock =>
    obtain rfl := Host.Outcome.next.inj h
    exact .ksBlock
  | macInit =>
    obtain rfl := Host.Outcome.next.inj h
    exact .macInit
  | macUpdate =>
    obtain ⟨c, hc, rfl⟩ | ⟨hc, D, hD, rfl⟩ := execMacUpdate_next h
    · exact .macUpdateError c hc
    · exact .macUpdate D hc hD
  | macFinal =>
    obtain ⟨c, hc, rfl⟩ | ⟨hc, rfl⟩ := execMacFinal_next h
    · exact .macFinalError c hc
    · exact .macFinal hc
  | aeadEnc =>
    obtain ⟨c, hc, rfl⟩ | ⟨hc, A, P, hA, hP, rfl⟩ := execAeadEnc_next h
    · exact .aeadEncError c hc
    · exact .aeadEnc A P hc hA hP
  | aeadDec =>
    obtain ⟨c, hc, rfl⟩ | ⟨hc, A, C, hA, hC, ⟨hk, rfl⟩ | ⟨hk, rfl⟩⟩ := execAeadDec_next h
    · exact .aeadDecError c hc
    · exact .aeadDecOpen A C hc hA hC hk
    · exact .aeadDecReject A C hc hA hC hk
  | ctEq =>
    obtain rfl := Host.Outcome.next.inj h
    exact .ctEq
  | clear =>
    obtain rfl := Host.Outcome.next.inj h
    exact .clear

end Sys2Proof.Machine
end

