-- ==== Sys2Proof/Laws/HostPort.lean ====
section
/-! SUPPORT. The host port, once: what a transaction, a poll and an input can answer, and which offsets name which location. -/

namespace Sys2Proof.Machine

theorem hostRead_next {off : Word} {s t : State} (h : s.hostRead off = .next t) :
    (s.isLocked (locOf s.cfg off.toNat) = true ∧ t = s.setHaz.noteRead off 0#32) ∨
      (s.isLocked (locOf s.cfg off.toNat) = false ∧
        ∃ v, s.readLoc (locOf s.cfg off.toNat) = some v ∧ t = s.noteRead off v) := by
  unfold State.hostRead at h
  split at h
  · rename_i hl
    exact .inl ⟨hl, (Host.Outcome.next.inj h).symm⟩
  · rename_i hl
    split at h
    · rename_i v hv
      exact .inr ⟨by simpa using hl, v, hv, (Host.Outcome.next.inj h).symm⟩
    · simp at h

theorem hostWrite_next {off v : Word} {s t : State} (h : s.hostWrite off v = .next t) :
    (s.isLocked (locOf s.cfg off.toNat) = true ∧ t = s.setHaz) ∨
      (s.isLocked (locOf s.cfg off.toNat) = false ∧ t = s.writeLoc (locOf s.cfg off.toNat) v) := by
  unfold State.hostWrite at h
  split at h
  · rename_i hl
    exact .inl ⟨hl, (Host.Outcome.next.inj h).symm⟩
  · rename_i hl
    exact .inr ⟨by simpa using hl, (Host.Outcome.next.inj h).symm⟩

/-- A read of a location that is not locked (10_state.md R24, 70_reset_and_hazards.md R327). -/
theorem hostRead_unlocked {off v : Word} {s : State} {l : Loc} (hl : locOf s.cfg off.toNat = l)
    (hu : s.isLocked l = false) (hv : s.readLoc l = some v) : s.hostRead off = .next (s.noteRead off v) := by
  simp [State.hostRead, hl, hu, hv]

/-- A read of a locked location (70_reset_and_hazards.md R326). -/
theorem hostRead_locked {off : Word} {s : State} {l : Loc} (hl : locOf s.cfg off.toNat = l)
    (hk : s.isLocked l = true) : s.hostRead off = .next (s.setHaz.noteRead off 0#32) := by
  simp [State.hostRead, hl, hk]

/-- A write of a location that is not locked (10_state.md R24, 70_reset_and_hazards.md R327). -/
theorem hostWrite_unlocked {off v : Word} {s : State} {l : Loc} (hl : locOf s.cfg off.toNat = l)
    (hu : s.isLocked l = false) : s.hostWrite off v = .next (s.writeLoc l v) := by
  simp [State.hostWrite, hl, hu]

/-- A write of a locked location (70_reset_and_hazards.md R326, R328). -/
theorem hostWrite_locked {off v : Word} {s : State} {l : Loc} (hl : locOf s.cfg off.toNat = l)
    (hk : s.isLocked l = true) : s.hostWrite off v = .next s.setHaz := by
  simp [State.hostWrite, hl, hk]

/-- With no command in progress nothing is locked (70_reset_and_hazards.md R326). -/
theorem isLocked_idle {s : State} (h : s.busy = false) (l : Loc) : s.isLocked l = false := by
  simp [State.isLocked, h]

/-- A transaction that gets a next state was aligned, 32 bits wide and inside the host space (20_memory.md R61, R60). -/
theorem transact_next {x : Transaction} {s t : State} (h : s.transact x = .next t) :
    x.WF s.cfg ∧
      ((∃ off, x = .read off 32 ∧ s.hostRead off = .next t) ∨ ∃ off v, x = .write off 32 v ∧ s.hostWrite off v = .next t) := by
  unfold State.transact at h
  split at h
  · simp at h
  · rename_i ha
    split at h
    · simp at h
    · rename_i hr
      have ha : x.Aligned32 := not_not.mp ha
      have hr : x.off.toNat < 2 ^ s.cfg.addrW := not_not.mp hr
      refine ⟨⟨ha, hr⟩, ?_⟩
      obtain ⟨-, hs⟩ := ha
      cases x with
      | read off size =>
        obtain rfl : size = 32 := hs
        exact .inl ⟨off, rfl, h⟩
      | write off size v =>
        obtain rfl : size = 32 := hs
        exact .inr ⟨off, v, rfl, h⟩

theorem transact_read {off : Word} {s : State} (ha : off.toNat % 4 = 0) (hr : off.toNat < 2 ^ s.cfg.addrW) :
    s.transact (.read off 32) = s.hostRead off := by
  simp [State.transact, Transaction.Aligned32, Transaction.off, Transaction.size, ha, hr]

theorem transact_write {off v : Word} {s : State} (ha : off.toNat % 4 = 0) (hr : off.toNat < 2 ^ s.cfg.addrW) :
    s.transact (.write off 32 v) = s.hostWrite off v := by
  simp [State.transact, Transaction.Aligned32, Transaction.off, Transaction.size, ha, hr]

/-- Everything one input from outside can do. -/
theorem perform_next {x : HostInput} {s t : State} (h : s.perform x = .next t) :
    (∃ off, x = .bus (.read off 32) ∧ (Transaction.read off 32).WF s.cfg ∧ s.hostRead off = .next t) ∨
    (∃ off v, x = .bus (.write off 32 v) ∧ (Transaction.write off 32 v).WF s.cfg ∧ s.hostWrite off v = .next t) ∨
    (x = .wait ∧ t = if s.busy then { s.noteRead statusOff s.statusWord with inbox := .wait :: s.inbox }
      else s.noteRead statusOff s.statusWord) ∨
    (x = .reset ∧ t = s.resetNow) := by
  cases x with
  | bus x =>
    obtain ⟨hw, ⟨off, rfl, ht⟩ | ⟨off, v, rfl, ht⟩⟩ := transact_next h
    · exact .inl ⟨off, rfl, hw, ht⟩
    · exact .inr (.inl ⟨off, v, rfl, hw, ht⟩)
  | wait => exact .inr (.inr (.inl ⟨rfl, (Host.Outcome.next.inj h).symm⟩))
  | reset => exact .inr (.inr (.inr ⟨rfl, (Host.Outcome.next.inj h).symm⟩))

/-- The registers of offsets 0x000 to 0x01C, by offset. -/
theorem controlLoc_cases {off : Nat} (h : off < 0x020) :
    (off < 0x004 ∧ controlLoc off = .id) ∨ (0x004 ≤ off ∧ off < 0x008 ∧ controlLoc off = .ctrl) ∨
    (0x008 ≤ off ∧ off < 0x00C ∧ controlLoc off = .status) ∨ (0x00C ≤ off ∧ off < 0x010 ∧ controlLoc off = .cmd) ∨
    (0x010 ≤ off ∧ off < 0x014 ∧ controlLoc off = .aPtr) ∨ (0x014 ≤ off ∧ off < 0x018 ∧ controlLoc off = .aLen) ∨
    (0x018 ≤ off ∧ off < 0x01C ∧ controlLoc off = .tPtr) ∨ (0x01C ≤ off ∧ controlLoc off = .tLen) := by
  have hq : off / 4 < 8 := by omega
  unfold controlLoc
  generalize hk : off / 4 = k at hq
  interval_cases k <;> simp only [reduceCtorEq, and_false, and_true, or_false, false_or] <;> omega

/-- The registers of offsets 0x020 to 0x07C, by offset. -/
theorem operandLoc_cases (off : Nat) :
    (off < 0x040 ∧ operandLoc off = .key (regIndex 8 0x020 off)) ∨
    (0x040 ≤ off ∧ off < 0x04C ∧ operandLoc off = .nonce (regIndex 3 0x040 off)) ∨
    (0x04C ≤ off ∧ off < 0x050 ∧ operandLoc off = .counter) ∨
    (0x050 ≤ off ∧ off < 0x060 ∧ operandLoc off = .tag (regIndex 4 0x050 off)) ∨
    (0x060 ≤ off ∧ off < 0x070 ∧ operandLoc off = .tagx (regIndex 4 0x060 off)) ∨
    (0x070 ≤ off ∧ operandLoc off = .reserved) := by
  unfold operandLoc
  split
  · exact .inl ⟨‹_›, rfl⟩
  · split
    · exact .inr (.inl ⟨by omega, ‹_›, rfl⟩)
    · split
      · exact .inr (.inr (.inl ⟨by omega, ‹_›, rfl⟩))
      · split
        · exact .inr (.inr (.inr (.inl ⟨by omega, ‹_›, rfl⟩)))
        · split
          · exact .inr (.inr (.inr (.inr (.inl ⟨by omega, ‹_›, rfl⟩))))
          · exact .inr (.inr (.inr (.inr (.inr ⟨by omega, rfl⟩))))

/-- What an offset names, by range (10_state.md R23, 20_memory.md R66). -/
theorem locOf_cases (c : Config) (off : Nat) :
    (off < 0x020 ∧ locOf c off = controlLoc off) ∨
    (0x020 ≤ off ∧ off < 0x080 ∧ locOf c off = operandLoc off) ∨
    (0x080 ≤ off ∧ off < 0x0C0 ∧ locOf c off = .ks (regIndex 16 0x080 off)) ∨
    (0x0C0 ≤ off ∧ off < 0x1000 ∧ locOf c off = .reserved) ∨
    (0x1000 ≤ off ∧ off < 0x1000 + c.dmemBytes ∧ locOf c off = .dmem (off - 0x1000)) ∨
    (0x1000 + c.dmemBytes ≤ off ∧ locOf c off = .reserved) := by
  unfold locOf regLoc
  split
  · split
    · exact .inl ⟨‹_›, rfl⟩
    · split
      · exact .inr (.inl ⟨by omega, ‹_›, rfl⟩)
      · split
        · exact .inr (.inr (.inl ⟨by omega, ‹_›, rfl⟩))
        · exact .inr (.inr (.inr (.inl ⟨by omega, ‹_›, rfl⟩)))
  · split
    · exact .inr (.inr (.inr (.inr (.inl ⟨by omega, ‹_›, rfl⟩))))
    · exact .inr (.inr (.inr (.inr (.inr ⟨by omega, rfl⟩))))

/-- An offset that names DMEM lies in the window (20_memory.md R67). -/
theorem locOf_dmem {c : Config} {off k : Nat} (h : locOf c off = .dmem k) : off = 0x1000 + k ∧ k < c.dmemBytes := by
  rcases locOf_cases c off with ⟨h1, h2⟩ | ⟨_, _, h2⟩ | ⟨_, _, h2⟩ | ⟨_, _, h2⟩ | ⟨h1, h3, h2⟩ | ⟨_, h2⟩ <;> rw [h2] at h
  · rcases controlLoc_cases h1 with ⟨_, h3⟩ | ⟨_, _, h3⟩ | ⟨_, _, h3⟩ | ⟨_, _, h3⟩ | ⟨_, _, h3⟩ | ⟨_, _, h3⟩ | ⟨_, _, h3⟩ |
      ⟨_, h3⟩ <;> simp [h3] at h
  · rcases operandLoc_cases off with ⟨_, h3⟩ | ⟨_, _, h3⟩ | ⟨_, _, h3⟩ | ⟨_, _, h3⟩ | ⟨_, _, h3⟩ | ⟨_, h3⟩ <;> simp [h3] at h
  · simp at h
  · simp at h
  · simp only [Loc.dmem.injEq] at h
    omega
  · simp at h

/-- The offsets of the DMEM window name its words (20_memory.md R67). -/
theorem locOf_window {c : Config} {k : Nat} (h : k < c.dmemBytes) : locOf c (0x1000 + k) = .dmem k := by
  rw [locOf, if_neg (by omega), if_pos (by omega), Nat.add_sub_cancel_left]

/-- The locked offsets of 70_reset_and_hazards.md R326. -/
theorem locOf_locked_iff (c : Config) (off : Nat) :
    (locOf c off).locked = true ↔
      (0x00C ≤ off ∧ off < 0x070) ∨ (0x080 ≤ off ∧ off < 0x0C0) ∨ (0x1000 ≤ off ∧ off < 0x1000 + c.dmemBytes) := by
  rcases locOf_cases c off with ⟨h1, h2⟩ | ⟨_, _, h2⟩ | ⟨_, _, h2⟩ | ⟨_, _, h2⟩ | ⟨_, _, h2⟩ | ⟨_, h2⟩ <;> rw [h2]
  · rcases controlLoc_cases h1 with ⟨_, h3⟩ | ⟨_, _, h3⟩ | ⟨_, _, h3⟩ | ⟨_, _, h3⟩ | ⟨_, _, h3⟩ | ⟨_, _, h3⟩ | ⟨_, _, h3⟩ |
      ⟨_, h3⟩ <;> simp only [h3, Loc.locked, true_iff, false_iff, Bool.false_eq_true] <;> omega
  · rcases operandLoc_cases off with ⟨_, h3⟩ | ⟨_, _, h3⟩ | ⟨_, _, h3⟩ | ⟨_, _, h3⟩ | ⟨_, _, h3⟩ | ⟨_, h3⟩ <;>
      simp only [h3, Loc.locked, true_iff, false_iff, Bool.false_eq_true] <;> omega
  all_goals simp only [Loc.locked, true_iff, false_iff, Bool.false_eq_true]; omega

end Sys2Proof.Machine
end

