-- ==== Sys2Proof/Laws/Memory.lean ====
section
/-! SUPPORT. Laws of DMEM: what a read returns after a write, and that every write keeps the canonical form. -/

namespace Sys2Proof.Machine

@[simp] theorem byte?_nil (a : Nat) : Memory.byte? [] a = none := rfl

/-- Read after write, at any offset. -/
theorem byte?_set (m : Memory) (a : Nat) (b : Byte) (x : Nat) :
    (m.set a b).byte? x = if x = a then some b else m.byte? x := by
  induction m with
  | nil =>
    by_cases h : x = a
    · simp [Memory.set, Memory.byte?, h]
    · simp [Memory.set, Memory.byte?, h, Ne.symm h]
  | cons c m ih =>
    obtain ⟨k, v⟩ := c
    simp only [Memory.set]
    split
    · by_cases h : x = a
      · simp [Memory.byte?, h]
      · simp [Memory.byte?, h, Ne.symm h]
    · split
      · rename_i _ hk
        by_cases h : x = a
        · simp [Memory.byte?, h]
        · subst hk
          simp [Memory.byte?, h, Ne.symm h]
      · rename_i hk
        simp only [Memory.byte?, ih]
        by_cases h : k = x
        · subst h
          simp [Ne.symm hk]
        · simp [h]

/-- An offset of the memory after a write is the one written or was there before. -/
theorem mem_set {m : Memory} {a : Nat} {b : Byte} {c : Host.Cell} (h : c ∈ m.set a b) : c = (a, b) ∨ c ∈ m := by
  induction m with
  | nil => simpa [Memory.set] using h
  | cons d m ih =>
    obtain ⟨k, v⟩ := d
    simp only [Memory.set] at h
    split at h
    · simpa using h
    · split at h
      · simp only [List.mem_cons] at h ⊢
        tauto
      · simp only [List.mem_cons] at h ⊢
        rcases h with h | h
        · exact .inr (.inl h)
        · rcases ih h with h | h
          · exact .inl h
          · exact .inr (.inr h)

/-- Writing a byte keeps the canonical form. -/
theorem wf_set {m : Memory} (h : m.wf) (a : Nat) (b : Byte) : (m.set a b).wf := by
  induction m with
  | nil => simp [Memory.set]
  | cons d m ih =>
    obtain ⟨k, v⟩ := d
    rw [Memory.wf, List.pairwise_cons] at h
    simp only [Memory.set]
    split
    · rename_i hlt
      refine List.pairwise_cons.mpr ⟨?_, List.pairwise_cons.mpr h⟩
      intro c hc
      rcases List.mem_cons.mp hc with rfl | hc
      · exact hlt
      · exact Nat.lt_trans hlt (h.1 c hc)
    · split
      · rename_i _ hk
        subst hk
        exact List.pairwise_cons.mpr h
      · rename_i h1 h2
        refine List.pairwise_cons.mpr ⟨?_, ih h.2⟩
        intro c hc
        rcases mem_set hc with rfl | hc
        · show k < a
          omega
        · exact h.1 c hc

theorem wf_write {m : Memory} (h : m.wf) (a : Nat) (B : List Byte) : (m.write a B).wf := by
  induction B generalizing m a with
  | nil => exact h
  | cons b B ih => exact ih (wf_set h a b) (a + 1)

/-- What a byte reads as after a write of a byte string (20_memory.md R71). -/
theorem byte?_write (m : Memory) (a : Nat) (B : List Byte) (x : Nat) :
    (m.write a B).byte? x = if a ≤ x ∧ x < a + B.length then B[x - a]? else m.byte? x := by
  induction B generalizing m a with
  | nil =>
    have : ¬ (a ≤ x ∧ x < a + ([] : List Byte).length) := by simp
    rw [if_neg this]
    rfl
  | cons b B ih =>
    rw [Memory.write, ih, byte?_set]
    simp only [List.length_cons]
    rcases Nat.lt_trichotomy x a with h | h | h
    · rw [if_neg (by omega), if_neg (by omega), if_neg (by omega)]
    · subst h
      rw [if_neg (by omega), if_pos rfl, if_pos (by omega), Nat.sub_self]
      rfl
    · rw [if_neg (show ¬ x = a by omega)]
      by_cases hx : x < a + (B.length + 1)
      · rw [if_pos (by omega), if_pos (by omega), show x - a = (x - (a + 1)) + 1 by omega, List.getElem?_cons_succ]
      · rw [if_neg (by omega), if_neg (by omega)]

/-- A write changes no byte outside its region (20_memory.md R71). -/
theorem byte?_write_outside (m : Memory) (a : Nat) (B : List Byte) (x : Nat) (h : x < a ∨ a + B.length ≤ x) :
    (m.write a B).byte? x = m.byte? x := by
  rw [byte?_write, if_neg (by omega)]

/-- Every offset of the memory after a write was there before or lies in the region written. -/
theorem mem_write {m : Memory} {a : Nat} {B : List Byte} {c : Host.Cell} (h : c ∈ m.write a B) :
    (a ≤ c.1 ∧ c.1 < a + B.length) ∨ c ∈ m := by
  induction B generalizing m a with
  | nil => exact .inr h
  | cons b B ih =>
    rcases ih h with h | h
    · exact .inl (by simp only [List.length_cons]; omega)
    · rcases mem_set h with rfl | h
      · exact .inl (by simp)
      · exact .inr h

/-- `MemRead` answers a byte string exactly when every byte of it has a value (20_memory.md R70). -/
theorem read_eq_some_iff (m : Memory) (a n : Nat) (B : List Byte) :
    m.read a n = some B ↔ B.length = n ∧ ∀ i, i < n → m.byte? (a + i) = B[i]? := by
  induction n generalizing a B with
  | zero =>
    simp only [Memory.read, Option.some.injEq]
    constructor
    · rintro rfl
      simp
    · rintro ⟨h, -⟩
      exact (List.length_eq_zero_iff.mp h).symm
  | succ n ih =>
    have hb (B : List Byte) (hl : B.length = n + 1) (h : ∀ i, i < n + 1 → m.byte? (a + i) = B[i]?) :
        ∃ b B', B = b :: B' ∧ m.byte? a = some b ∧ m.read (a + 1) n = some B' := by
      cases B with
      | nil => simp at hl
      | cons b B' =>
        refine ⟨b, B', rfl, by simpa using h 0 (by omega), (ih (a + 1) B').mpr ⟨by simpa using hl, ?_⟩⟩
        intro i hi
        have := h (i + 1) (by omega)
        rwa [List.getElem?_cons_succ, show a + (i + 1) = a + 1 + i by omega] at this
    constructor
    · intro h
      simp only [Memory.read] at h
      split at h
      · rename_i b bs h1 h2
        obtain rfl : b :: bs = B := by simpa using h
        obtain ⟨hl, hr⟩ := (ih (a + 1) bs).mp h2
        refine ⟨by simp [hl], ?_⟩
        intro i hi
        cases i with
        | zero => simpa using h1
        | succ i =>
          rw [List.getElem?_cons_succ, show a + (i + 1) = a + 1 + i by omega]
          exact hr i (by omega)
      · simp at h
    · rintro ⟨hl, hr⟩
      obtain ⟨b, B', rfl, h1, h2⟩ := hb B hl hr
      simp [Memory.read, h1, h2]

theorem read_length {m : Memory} {a n : Nat} {B : List Byte} (h : m.read a n = some B) : B.length = n :=
  ((read_eq_some_iff m a n B).mp h).1

/-- Neighbouring regions read as one. -/
theorem read_append {m : Memory} {a n k : Nat} {A B : List Byte} (hA : m.read a n = some A)
    (hB : m.read (a + n) k = some B) : m.read a (n + k) = some (A ++ B) := by
  rw [read_eq_some_iff] at *
  refine ⟨by simp [hA.1, hB.1], fun i hi => ?_⟩
  by_cases h : i < n
  · rw [hA.2 i h, List.getElem?_append_left (by omega)]
  · rw [List.getElem?_append_right (by omega), hA.1, ← hB.2 _ (by omega)]
    congr 1
    omega

/-- A region reads back what was written to it. -/
theorem read_write_same (m : Memory) (a : Nat) (B : List Byte) : (m.write a B).read a B.length = some B := by
  refine (read_eq_some_iff _ _ _ _).mpr ⟨rfl, fun i hi => ?_⟩
  rw [byte?_write, if_pos (by omega)]
  congr 1
  omega

/-- A region that shares no byte with the one written reads as before. -/
theorem read_write_disjoint (m : Memory) (a : Nat) (B : List Byte) (c n : Nat)
    (h : n = 0 ∨ B.length = 0 ∨ c + n ≤ a ∨ a + B.length ≤ c) : (m.write a B).read c n = m.read c n := by
  have key (B' : List Byte) : (m.write a B).read c n = some B' ↔ m.read c n = some B' := by
    rw [read_eq_some_iff, read_eq_some_iff]
    refine and_congr_right fun _ => forall_congr' fun i => imp_congr_right fun hi => ?_
    rw [byte?_write_outside _ _ _ _ (by omega)]
  exact Option.ext fun B' => key B'

/-- Two canonical memories that read alike at every offset are equal. -/
theorem memory_ext {m n : Memory} (hm : m.wf) (hn : n.wf) (h : ∀ a, m.byte? a = n.byte? a) : m = n := by
  have below {l : Memory} {x : Nat} (hl : ∀ c ∈ l, x < c.1) : l.byte? x = none := by
    induction l with
    | nil => rfl
    | cons c l ih =>
      have h1 := hl c (by simp)
      rw [Memory.byte?, if_neg (by omega)]
      exact ih fun d hd => hl d (by simp [hd])
  induction m generalizing n with
  | nil =>
    cases n with
    | nil => rfl
    | cons d n => simpa [Memory.byte?, Memory.unlisted] using h d.1
  | cons c m ih =>
    rw [Memory.wf, List.pairwise_cons] at hm
    cases n with
    | nil => simpa [Memory.byte?, Memory.unlisted] using h c.1
    | cons d n =>
      rw [Memory.wf, List.pairwise_cons] at hn
      have hk : c.1 = d.1 := by
        rcases Nat.lt_trichotomy c.1 d.1 with hlt | heq | hlt
        · have h1 := h c.1
          rw [below (l := d :: n) (x := c.1) (by
            intro e he
            rcases List.mem_cons.mp he with rfl | he
            · exact hlt
            · exact Nat.lt_trans hlt (hn.1 e he))] at h1
          simp [Memory.byte?] at h1
        · exact heq
        · have h1 := h d.1
          rw [below (l := c :: m) (x := d.1) (by
            intro e he
            rcases List.mem_cons.mp he with rfl | he
            · exact hlt
            · exact Nat.lt_trans hlt (hm.1 e he))] at h1
          simp [Memory.byte?] at h1
      have hv : c.2 = d.2 := by
        have h1 := h c.1
        simpa [Memory.byte?, hk] using h1
      have hmn : m = n := by
        refine ih hm.2 hn.2 fun a => ?_
        have h1 := h a
        simp only [Memory.byte?] at h1
        by_cases ha : c.1 = a
        · rw [below (l := m) fun e he => ha ▸ hm.1 e he, below (l := n) fun e he => ha ▸ hk ▸ hn.1 e he]
        · rwa [if_neg ha, if_neg (hk ▸ ha)] at h1
      rw [hmn, Prod.ext hk hv]

end Sys2Proof.Machine
end

