-- ==== Sys2Proof/Laws/PerInstr.lean ====
section
/-! SUPPORT. What holds of every command as syntax, one lemma per command. -/

namespace Sys2Proof.Laws.CommandWord

/-- The word of a command has its family, its operation and zero reserved bits in their places, and nothing else
(30_encoding.md R90). -/
def Statement (i : Instr) : Prop :=
  famField (encode i) = i.fam ∧ opField (encode i) = i.op ∧ rsvField (encode i) = 0#24 ∧ (encode i).toNat < 2 ^ 8

theorem nop : Statement .nop := by unfold Statement; decide
theorem ksBlock : Statement .ksBlock := by unfold Statement; decide
theorem macInit : Statement .macInit := by unfold Statement; decide
theorem macUpdate : Statement .macUpdate := by unfold Statement; decide
theorem macFinal : Statement .macFinal := by unfold Statement; decide
theorem aeadEnc : Statement .aeadEnc := by unfold Statement; decide
theorem aeadDec : Statement .aeadDec := by unfold Statement; decide
theorem ctEq : Statement .ctEq := by unfold Statement; decide
theorem clear : Statement .clear := by unfold Statement; decide

end Sys2Proof.Laws.CommandWord
end

