-- ==== Sys2Proof/Laws/Step.lean ====
section
/-! SUPPORT. The step, once: everything it can answer when it answers a next state. -/

namespace Sys2Proof.Machine

/-- With no command in progress it is the HOST's turn. -/
theorem seqTurn_idle {s : State} (h : s.busy = false) : s.seqTurn = false := by simp [State.seqTurn, h]

theorem seqTurn_iff (s : State) : s.seqTurn = true ↔ s.busy = true ∧ (s.delay = 0 ∨ s.inbox = []) := by
  simp [State.seqTurn]

/-- A step is a completion (of a command, or of an illegal word), an idle step, or one input from outside. -/
theorem step_next {s t : State} (h : step s = .next t) :
    (s.seqTurn = true ∧ ∃ i, decode s.pend = .ok i ∧ exec i s = .next t) ∨
    (s.seqTurn = true ∧ (∃ r, decode s.pend = .error r) ∧ t = s.complete .eIllegal) ∨
    (s.seqTurn = false ∧ s.inbox = [] ∧ t = s) ∨
    (s.seqTurn = false ∧ ∃ x rest, s.inbox = x :: rest ∧ (s.takeInput rest).perform x = .next t) := by
  unfold step at h
  split at h
  · rename_i hs
    split at h
    · rename_i i hi
      exact .inl ⟨hs, i, hi, h⟩
    · rename_i r hr
      exact .inr (.inl ⟨hs, ⟨r, hr⟩, (Host.Outcome.next.inj h).symm⟩)
  · rename_i hs
    have hs : s.seqTurn = false := by simpa using hs
    unfold State.hostTurn at h
    split at h
    · rename_i he
      exact .inr (.inr (.inl ⟨hs, he, (Host.Outcome.next.inj h).symm⟩))
    · rename_i x rest hx
      exact .inr (.inr (.inr ⟨hs, x, rest, hx, h⟩))

/-- On the HOST's turn the step is the next input. -/
theorem step_input {s : State} {x : HostInput} {rest : List HostInput} (hs : s.seqTurn = false)
    (hx : s.inbox = x :: rest) : step s = (s.takeInput rest).perform x := by
  simp [step, hs, State.hostTurn, hx]

/-- Every offset of the register block and of the DMEM window is in the host space (00_scope.md R8). -/
theorem inSpace {c : Config} (hc : c.WF) {off : Nat} (h : off < 0x1000 + c.dmemBytes) : off < 2 ^ c.addrW :=
  Nat.lt_of_lt_of_le h hc.2.2.2.2

/-- On the HOST's turn an aligned read inside the host space is the next step. -/
theorem step_read {s : State} {off : Word} {rest : List HostInput} (hs : s.seqTurn = false)
    (hx : s.inbox = .bus (.read off 32) :: rest) (ha : off.toNat % 4 = 0) (hr : off.toNat < 2 ^ s.cfg.addrW) :
    step s = (s.takeInput rest).hostRead off := by
  exact (step_input hs hx).trans (transact_read ha hr)

/-- On the HOST's turn an aligned write inside the host space is the next step. -/
theorem step_write {s : State} {off v : Word} {rest : List HostInput} (hs : s.seqTurn = false)
    (hx : s.inbox = .bus (.write off 32 v) :: rest) (ha : off.toNat % 4 = 0) (hr : off.toNat < 2 ^ s.cfg.addrW) :
    step s = (s.takeInput rest).hostWrite off v := by
  exact (step_input hs hx).trans (transact_write ha hr)

/-- On SEQ's turn the step is the completion of the decoded command. -/
theorem step_command {s : State} {i : Instr} (hs : s.seqTurn = true) (hi : decode s.pend = .ok i) :
    step s = exec i s := by
  simp [step, hs, hi]

/-- On SEQ's turn an illegal word completes with E_ILLEGAL (30_encoding.md R94). -/
theorem step_illegal {s : State} {r : Reject} (hs : s.seqTurn = true) (hi : decode s.pend = .error r) :
    step s = .next (s.complete .eIllegal) := by
  simp [step, hs, hi, execIllegal]

end Sys2Proof.Machine
end

