-- ==== Sys2Proof/Tests/Slice0.lean ====
section
/-! SUPPORT. Tests. Every expected value is from 95_test_vectors.md or from the rule a test names. The witnesses at the end show
for each obligation a state and operands that meet its hypotheses. -/

namespace Sys2Proof.Tests

-- One test after the other: kernel evaluations at the same time need a thread each.
set_option Elab.async false

open Sys2Proof.Machine

/-! ## Ill-formed terms are refused -/

/-- 00_scope.md R8: the defaults and the two ends of the range of DMEM_BYTES. -/
theorem test_config_wf : Config.default.WF ∧ (Config.mk 64 13 0#32).WF ∧ (Config.mk (2 ^ 32 - 4096) 32 0#32).WF := by decide

theorem test_config_not_word_multiple : ¬ (Config.mk 4098 16 0#32).WF := by decide
theorem test_config_too_small : ¬ (Config.mk 60 16 0#32).WF := by decide
theorem test_config_too_big : ¬ (Config.mk (2 ^ 32 - 4092) 33 0#32).WF := by decide
theorem test_config_address_too_wide : ¬ (Config.mk 4096 33 0#32).WF := by decide
theorem test_config_address_too_narrow : ¬ (Config.mk 4100 13 0#32).WF := by decide

/-- 20_memory.md R61, R60: aligned, 32 bits wide, inside the host space. -/
theorem test_transaction_wf : (Transaction.read 0xFFFC#32 32).WF .default := by decide

theorem test_transaction_misaligned : ¬ (Transaction.read 0x002#32 32).WF .default := by decide
theorem test_transaction_halfword : ¬ (Transaction.write 0x004#32 16 0#32).WF .default := by decide
theorem test_transaction_outside : ¬ (Transaction.read 0x10000#32 32).WF .default := by decide

/-- 30_encoding.md R98: KEY takes 32 bytes, NONCE 12, TAG and TAGX 16. -/
theorem test_line_lengths :
    (Line.key (zeros 32)).WF ∧ (Line.nonce (zeros 12)).WF ∧ (Line.tag (zeros 16)).WF ∧ (Line.tagx (zeros 16)).WF ∧
      ¬ (Line.key (zeros 31)).WF ∧ ¬ (Line.nonce (zeros 13)).WF ∧ ¬ (Line.tag (zeros 15)).WF ∧
      ¬ (Line.tagx (zeros 17)).WF := by decide

/-- 20_memory.md R61, 30_encoding.md R98: offsets are multiples of 4. -/
theorem test_line_alignment :
    ¬ (Line.w 0x011#32 0#32).WF ∧ ¬ (Line.r 0x002#32).WF ∧ ¬ (Line.rBind 0x003#32 "x").WF ∧
      ¬ (Line.wb 0x1001#32 []).WF ∧ ¬ (Line.mem 0x002#32 []).WF ∧ ¬ (Line.rb 0x081#32 4 "x").WF := by decide

/-! ## Decoding: each word is RSV, FAM, OP of 30_encoding.md R90 and R93 -/

theorem test_decode_nop : decode (0#24 ++ 0x0#4 ++ 0x0#4) = .ok .nop := by decide
theorem test_decode_ksBlock : decode (0#24 ++ 0x1#4 ++ 0x0#4) = .ok .ksBlock := by decide
theorem test_decode_macInit : decode (0#24 ++ 0x2#4 ++ 0x0#4) = .ok .macInit := by decide
theorem test_decode_macUpdate : decode (0#24 ++ 0x2#4 ++ 0x1#4) = .ok .macUpdate := by decide
theorem test_decode_macFinal : decode (0#24 ++ 0x2#4 ++ 0x2#4) = .ok .macFinal := by decide
theorem test_decode_aeadEnc : decode (0#24 ++ 0x3#4 ++ 0x0#4) = .ok .aeadEnc := by decide
theorem test_decode_aeadDec : decode (0#24 ++ 0x3#4 ++ 0x1#4) = .ok .aeadDec := by decide
theorem test_decode_ctEq : decode (0#24 ++ 0x4#4 ++ 0x0#4) = .ok .ctEq := by decide
theorem test_decode_clear : decode (0#24 ++ 0xF#4 ++ 0x0#4) = .ok .clear := by decide

/-- V-ILL, and the first and last unassigned families. -/
theorem test_decode_illegal :
    decode 0x00000011#32 = .error .unassignedOp ∧ decode 0x00000100#32 = .error .reservedBits ∧
      decode 0x00000123#32 = .error .reservedBits ∧ decode 0xFFFFFFFF#32 = .error .reservedBits ∧
      decode 0x000000F1#32 = .error .unassignedOp ∧ decode 0x00000023#32 = .error .unassignedOp ∧
      decode 0x00000032#32 = .error .unassignedOp ∧ decode 0x00000050#32 = .error .unassignedFamily ∧
      decode 0x000000E0#32 = .error .unassignedFamily := by decide

theorem test_decodeTableWord :
    decodeTableWord 32 0x00000021 = some .macUpdate ∧ decodeTableWord 32 0x00000123 = none ∧
      decodeTableWord 64 0x100000000 = none ∧ decodeTableWord 8 0xF0 = some .clear := by decide

/-! ## Helpers -/

/-- The next state of an outcome. -/
def after : Host.Outcome State Fault Refusal → Option State
  | .next t => some t
  | .fault _ => none
  | .refused _ => none

/-- The fault of an outcome. -/
def faultOf : Host.Outcome State Fault Refusal → Option Fault
  | .next _ => none
  | .fault f => some f
  | .refused _ => none

theorem exists_next {o : Host.Outcome State Fault Refusal} {P : State → Prop} [DecidablePred P]
    (h : (match after o with | some t => decide (P t) | none => false) = true) : ∃ t, o = .next t ∧ P t := by
  cases o with
  | next t => exact ⟨t, rfl, by simpa [after] using h⟩
  | fault f => simp [after] at h
  | refused r => simp [after] at h

/-- An idle CORE whose HOST has one input to perform. -/
def idleWith (x : HostInput) : State := { State.reset with inbox := [x] }

/-- A CORE that runs KS_BLOCK and performs at least one input before it completes. -/
def busyWith (x : HostInput) : State :=
  { State.reset with pend := 0x10#32, busy := true, delay := 2, inbox := [x, .wait, .wait] }

/-- DMEM of a run: bytes from offset 0 on. -/
def memory (B : List Byte) : Memory := Memory.write [] 0 B

/-- The OTK of V-MAC1, as the KEY words. -/
def macKey : Vector Word 8 :=
  #v[0x78bed685#32, 0x336d5557#32, 0xfe52447f#32, 0xa806d542#32, 0x8a800301#32, 0xfdb20dfb#32, 0xaff6bf4a#32, 0x1bf54941#32]

/-- "Cryptographic Forum Research Group" (V-MAC1). -/
def macMessage : List Byte :=
  [0x43#8, 0x72#8, 0x79#8, 0x70#8, 0x74#8, 0x6f#8, 0x67#8, 0x72#8, 0x61#8, 0x70#8, 0x68#8, 0x69#8, 0x63#8, 0x20#8, 0x46#8,
   0x6f#8] ++
  [0x72#8, 0x75#8, 0x6d#8, 0x20#8, 0x52#8, 0x65#8, 0x73#8, 0x65#8, 0x61#8, 0x72#8, 0x63#8, 0x68#8, 0x20#8, 0x47#8, 0x72#8,
   0x6f#8, 0x75#8, 0x70#8]

/-- A direct session under the key of V-MAC1, with the message in DMEM. -/
def macState : State :=
  { State.reset with key := macKey, mac := macInit (wordsBytes macKey.toList), dmem := memory macMessage, tLen := 34#32 }

/-- The key and the nonce of V-AEAD1. -/
def aeadState : State :=
  { State.reset with
    key := #v[0x83828180#32, 0x87868584#32, 0x8b8a8988#32, 0x8f8e8d8c#32, 0x93929190#32, 0x97969594#32, 0x9b9a9998#32,
              0x9f9e9d9c#32]
    nonce := #v[0x00000007#32, 0x43424140#32, 0x47464544#32] }

/-- The AAD of V-AEAD1. -/
def aeadAad : List Byte :=
  [0x50#8, 0x51#8, 0x52#8, 0x53#8, 0xc0#8, 0xc1#8, 0xc2#8, 0xc3#8, 0xc4#8, 0xc5#8, 0xc6#8, 0xc7#8]

/-- V-AEAD6: one byte 00 of text at offset 16, in a word of known bytes. -/
def aeadSix : State :=
  { aeadState with dmem := Memory.write [] 16 [0x00#8, 0xaa#8, 0xbb#8, 0xcc#8], tPtr := 16#32, tLen := 1#32 }

/-- V-AEAD6 decrypted: its ciphertext 9f and its tag bb 75 8e 73 7c b5 6e 18 df 47 48 42 1b 08 5b b0. -/
def aeadSixSealed : State :=
  { aeadSix with dmem := Memory.write [] 16 [0x9f#8, 0xaa#8, 0xbb#8, 0xcc#8]
                 tag := #v[0x738e75bb#32, 0x186eb57c#32, 0x424847df#32, 0xb05b081b#32] }

/-! ## One step of each command -/

/-- V-CTL1. -/
theorem test_nop :
    after (exec .nop { State.reset with tag := #v[5#32, 0#32, 0#32, 0#32], busy := true, err := .eAuth }) =
      some { State.reset with tag := #v[5#32, 0#32, 0#32, 0#32], done := true } := by decide

/-- V-KS1. -/
theorem test_ksBlock :
    (after (exec .ksBlock { State.reset with
      key := #v[0x03020100#32, 0x07060504#32, 0x0b0a0908#32, 0x0f0e0d0c#32, 0x13121110#32, 0x17161514#32, 0x1b1a1918#32,
                0x1f1e1d1c#32]
      nonce := #v[0x09000000#32, 0x4a000000#32, 0x00000000#32], counter := 1#32 })).map (fun t => (t.ks, t.counter, t.err)) =
    some (#v[0xe4e7f110#32, 0x15593bd1#32, 0x1fdd0f50#32, 0xc47120a3#32, 0xc7f4d1c7#32, 0x0368c033#32, 0x9aaa2204#32,
             0x4e6cd4c3#32, 0x466482d2#32, 0x09aa9f07#32, 0x05d7c214#32, 0xa2028bd9#32, 0xd19c12b5#32, 0xb94e16de#32,
             0xe883d0cb#32, 0x4e3c50a2#32], 1#32, .ok) := by decide +kernel

/-- V-KS3: the largest counter, with no wrap and no increment. -/
theorem test_ksBlock_largest_counter :
    (after (exec .ksBlock { State.reset with
      key := .replicate 8 0xffffffff#32, nonce := .replicate 3 0xffffffff#32, counter := 0xffffffff#32 })).map
        (fun t => (t.ks[0], t.ks[15], t.counter)) = some (0xcf212bd7#32, 0x49e76be9#32, 0xffffffff#32) := by decide +kernel

/-- V-QR1, and V-QR4 with its dropped carries. -/
theorem test_quarterRound :
    quarterRound 0x11111111#32 0x01020304#32 0x9b8d6f43#32 0x01234567#32 =
      (0xea2a92f4#32, 0xcb1cf8ce#32, 0x4581472e#32, 0x5881c4bb#32) ∧
    quarterRound 0xffffffff#32 0xffffffff#32 0xffffffff#32 0xffffffff#32 =
      (0xf0000ffd#32, 0x88790878#32, 0x0110fdef#32, 0x010ffdf0#32) := by decide

/-- V-QR2: only words 2, 7, 8 and 13 change. -/
theorem test_qr :
    qr #v[0x879531e0#32, 0xc5ecf37d#32, 0x516461b1#32, 0xc9a62f8a#32, 0x44c20ef3#32, 0x3390af7f#32, 0xd9fc690b#32,
          0x2a5f714c#32, 0x53372767#32, 0xb00a5631#32, 0x974c541a#32, 0x359e9963#32, 0x5c971061#32, 0x3d631689#32,
          0x2098d9d6#32, 0x91dbd320#32] 2 7 8 13 =
      #v[0x879531e0#32, 0xc5ecf37d#32, 0xbdb886dc#32, 0xc9a62f8a#32, 0x44c20ef3#32, 0x3390af7f#32, 0xd9fc690b#32,
         0xcfacafd2#32, 0xe46bea80#32, 0xb00a5631#32, 0x974c541a#32, 0x359e9963#32, 0x5c971061#32, 0xccc07c79#32,
         0x2098d9d6#32, 0x91dbd320#32] := by decide +kernel

/-- V-MAC1's limbs and pad words (41_mac.md R165). -/
theorem test_macInit :
    (after (exec .macInit { State.reset with key := macKey })).map (fun t => (t.mac.rl, t.mac.sp, t.mac.acc.val, t.mac.st)) =
      some (#v[0x0bed685#32, 0x3555502#32, 0x047c036#32, 0x1003949#32, 0x00806d5#32],
            #v[0x8a800301#32, 0xfdb20dfb#32, 0xaff6bf4a#32, 0x1bf54941#32], 0, .active) := by decide +kernel

/-- V-MAC1: the accumulator after its two full blocks, and BUFLEN = 2. -/
theorem test_macUpdate :
    (after (exec .macUpdate macState)).map (fun t => (t.mac.acc.val, t.mac.bufLen.val, t.mac.buf[0], t.mac.buf[1], t.err)) =
      some (0x2d8adaf23b0337fa7cccfb4ea344b30de, 2, 0x75#8, 0x70#8, .ok) := by decide +kernel

/-- V-MAC9: the state check comes before the range check. -/
theorem test_macUpdate_idle :
    (after (exec .macUpdate { State.reset with tPtr := 0x2000#32, tLen := 1#32 })).map (fun t => (t.err, t.mac.st)) =
      some (.eMacState, .idle) := by decide

/-- V-MAC1's tag, from the accumulator state after MAC_UPDATE. -/
theorem test_macFinal :
    (after (exec .macFinal { macState with
      mac := { macState.mac with
        acc := ⟨0x2d8adaf23b0337fa7cccfb4ea344b30de, by decide⟩
        buf := #v[0x75#8, 0x70#8, 0#8, 0#8, 0#8, 0#8, 0#8, 0#8, 0#8, 0#8, 0#8, 0#8, 0#8, 0#8, 0#8], bufLen := 2 } })).map
        (fun t => (t.tag, t.mac)) =
      some (#v[0xc11d06a8#32, 0xc6365130#32, 0xaf8b2bc2#32, 0xa927010c#32], .zeroized .finalized) := by decide +kernel

/-- V-MAC2: with nothing absorbed the tag is s. -/
theorem test_macFinal_empty :
    (after (exec .macFinal macState)).map (·.tag) =
      some #v[0x8a800301#32, 0xfdb20dfb#32, 0xaff6bf4a#32, 0x1bf54941#32] := by decide +kernel

/-- V-AEAD6: C = 9f, the tag, and the other bytes of the word untouched. -/
theorem test_aeadEnc :
    (after (exec .aeadEnc aeadSix)).map (fun t => (t.tag, t.dmem, t.err, t.mac.st)) =
      some (#v[0x738e75bb#32, 0x186eb57c#32, 0x424847df#32, 0xb05b081b#32],
            [(16, 0x9f#8), (17, 0xaa#8), (18, 0xbb#8), (19, 0xcc#8)], .ok, .idle) := by decide +kernel

/-- V-AEAD5: AAD only; the tag e6 22 e5 64 7a 38 d9 67 a7 ec bc b4 6c 7f 67 5c. -/
theorem test_aeadEnc_aad_only :
    (after (exec .aeadEnc { aeadState with dmem := memory aeadAad, aLen := 12#32 })).map (·.tag) =
      some #v[0x64e522e6#32, 0x67d9387a#32, 0xb4bceca7#32, 0x5c677f6c#32] := by decide +kernel

/-- V-AEAD6 turned round: EQ = 1 and the text is back. -/
theorem test_aeadDec :
    (after (exec .aeadDec aeadSixSealed)).map (fun t => (t.err, t.eq, t.dmem)) =
      some (.ok, true, [(16, 0x00#8), (17, 0xaa#8), (18, 0xbb#8), (19, 0xcc#8)]) := by decide +kernel

/-- V-AEAD13's change, the highest bit of the tag: E_AUTH, EQ = 0, DMEM and TAG as they were. -/
theorem test_aeadDec_changed_tag :
    (after (exec .aeadDec { aeadSixSealed with tag := aeadSixSealed.tag.set 3 0x305b081b#32, eq := true })).map
        (fun t => (t.err, t.eq, t.dmem == aeadSixSealed.dmem, t.tag[3])) = some (.eAuth, false, true, 0x305b081b#32) := by
  decide +kernel

/-- V-EQ1 and V-EQ6: byte 12 differs. -/
theorem test_ctEq :
    (after (exec .ctEq State.reset)).map (·.eq) = some true ∧
    (after (exec .ctEq { State.reset with
      tag := #v[0xc11d06a8#32, 0xc6365130#32, 0xaf8b2bc2#32, 0xa927010c#32]
      tagx := #v[0xc11d06a8#32, 0xc6365130#32, 0xaf8b2bc2#32, 0xa927010d#32], eq := true })).map (·.eq) = some false := by
  decide

/-- V-CTL2. -/
theorem test_clear :
    after (exec .clear { macState with ie := true, haz := true, tagx := #v[7#32, 0#32, 0#32, 0#32], eq := true }) =
      some { State.reset with ie := true, haz := true, done := true, dmem := macState.dmem } := by decide +kernel

/-- V-ILL: MAC_ST and EQ stay. -/
theorem test_illegal :
    (after (step ({ State.reset with eq := true, mac := macInit (zeros 32) }.placeCommand 0x123#32))).map
      (fun t => (t.err, t.eq, t.mac.st, t.done)) = some (.eIllegal, true, .active, true) := by decide

/-! ## More of the MAC: both layers -/

/-- V-MAC4 (the final reduction subtracts p), V-MAC5 (the pad addition wraps) and V-MAC6 (clamp at its limit), by the value
rules. -/
theorem test_tags :
    (macAbsorb (macInit (2#8 :: zeros 31)) (.replicate 16 0xff#8)).finalTag = 3#8 :: zeros 15 ∧
    (macAbsorb (macInit (1#8 :: zeros 15 ++ .replicate 16 0xff#8)) (zeros 16)).finalTag = .replicate 16 0xff#8 ∧
    (macAbsorb (macInit (.replicate 32 0xff#8)) (.replicate 17 0xff#8)).finalTag =
      [0x7c#8, 0xfe#8, 0x7f#8, 0xf7#8, 0x68#8, 0xf8#8, 0x1f#8, 0x27#8, 0x63#8, 0xf8#8, 0xbf#8, 0x56#8, 0x5d#8, 0xf8#8, 0x5f#8,
       0x86#8] := by decide +kernel

/-- The same three vectors by the limb datapath (41_mac.md R161 to R164), and V-MAC1. -/
theorem test_limb_tags :
    limbTag (2#8 :: zeros 31) (.replicate 16 0xff#8) = 3#8 :: zeros 15 ∧
    limbTag (1#8 :: zeros 15 ++ .replicate 16 0xff#8) (zeros 16) = .replicate 16 0xff#8 ∧
    limbTag (.replicate 32 0xff#8) (.replicate 17 0xff#8) =
      [0x7c#8, 0xfe#8, 0x7f#8, 0xf7#8, 0x68#8, 0xf8#8, 0x1f#8, 0x27#8, 0x63#8, 0xf8#8, 0xbf#8, 0x56#8, 0x5d#8, 0xf8#8, 0x5f#8,
       0x86#8] ∧
    limbTag (wordsBytes macKey.toList) macMessage =
      [0xa8#8, 0x06#8, 0x1d#8, 0xc1#8, 0x30#8, 0x51#8, 0x36#8, 0xc6#8, 0xc2#8, 0x2b#8, 0x8b#8, 0xaf#8, 0x0c#8, 0x01#8, 0x27#8,
       0xa9#8] := by decide +kernel

/-! ## The host port -/

/-- V-ST1, V-ST2 and V-ST4. -/
theorem test_status_and_ctrl_writes :
    (after (step { idleWith (hostW 0x008#32 0xFFFFFFFF#32) with done := true, haz := true, eq := true })).map
      (fun t => (t.done, t.haz, t.eq)) = some (false, false, true) ∧
    (after (step { idleWith (hostW 0x008#32 0x2#32) with done := true, haz := true })).map
      (fun t => (t.done, t.haz)) = some (false, true) ∧
    (after (step (idleWith (hostW 0x004#32 0xFFFFFFFF#32)))).map (·.ctrlWord) = some 1#32 := by decide

/-- V-ST3 and V-ST7: IRQ follows IE at once; issue clears DONE and keeps ERR. -/
theorem test_irq_and_issue :
    (after (step { idleWith (hostW 0x004#32 1#32) with done := true })).map (·.irq) = some true ∧
    (after (step { idleWith (hostW 0x00C#32 0x10#32) with done := true, err := .eAuth })).map
      (fun t => (t.busy, t.done, t.err, t.pend)) = some (true, false, .eAuth, 0x10#32) := by decide

/-- V-HAZ1 to V-HAZ5. -/
theorem test_hazards :
    (after (step { busyWith (hostR 0x080#32) with ks := .replicate 16 7#32 })).map (fun t => (t.readLog, t.haz)) =
      some ([(0x080#32, 0#32)], true) ∧
    (after (step (busyWith (hostW 0x00C#32 0x20#32)))).map (fun t => (t.pend, t.haz)) = some (0x10#32, true) ∧
    (after (step (busyWith (hostR 0x1000#32)))).map (fun t => (t.readLog, t.haz)) = some ([(0x1000#32, 0#32)], true) ∧
    (after (step (busyWith (hostW 0x020#32 9#32)))).map (fun t => (t.key[0], t.haz)) = some (0#32, true) ∧
    (after (step (busyWith (hostR 0x000#32)))).map (fun t => (t.readLog, t.haz)) =
      some ([(0x000#32, 0x00008439#32)], false) := by decide

/-- V-BUS1, V-RST1's model fault, and V-KS7 with 10_state.md R37: KEY reads 0. -/
theorem test_faults_and_write_only :
    faultOf (step (idleWith (hostR 0x002#32))) = some .busError ∧
    faultOf (step (idleWith (.bus (.write 0x004#32 16 1#32)))) = some .busError ∧
    faultOf (step (idleWith (hostR 0x1000#32))) = some .unwrittenHostRead ∧
    (after (step { idleWith (hostR 0x020#32) with key := macKey })).map (·.readLog) = some [(0x020#32, 0#32)] := by decide

/-- V-MAC9's STATUS word after the second MAC_FINAL: ERR = 2, MAC_ST = FINALIZED, DONE = 1. -/
theorem test_status_word :
    State.statusWord { State.reset with err := .eMacState, mac := .zeroized .finalized, done := true } = 0x00000222#32 := by
  decide

/-- V-RST2: reset during a command. -/
theorem test_reset_input :
    (after (step { busyWith .reset with dmem := memory macMessage, ie := true })).map
      (fun t => (t.statusWord, t.ie, t.pend, t.dmem)) = some (0#32, false, 0#32, []) := by decide +kernel

/-- P2's first and last lines of text: MEM pads the last word with zeros. -/
theorem test_program_lines :
    expandLine (.mem 0x000#32 (aeadAad.take 6)) = [hostW 0x1000#32 0x53525150#32, hostW 0x1004#32 0x0000c1c0#32] ∧
    expandLine (.run .aeadEnc) = [hostW 0x00C#32 0x30#32, .wait] ∧
    expandLine (.rb 0x080#32 9 "B") = [hostR 0x080#32, hostR 0x084#32, hostR 0x088#32] ∧
    expandLine .ackAll = [hostW 0x008#32 0x42#32] := by decide

/-- A command word placed after reset runs at the next step (log 12). -/
theorem test_withFetchWord :
    (after (step (State.reset.withFetchWord 32 0x20))).map (fun t => (t.mac.st, t.done, t.busy)) =
      some (.active, true, false) := by decide +kernel

/-! ## Witnesses: for each obligation with hypotheses, a state and operands that meet them -/

/-- The default parameters, an idle CORE and a word of each illegal shape. -/
theorem witness_IllegalWordsAreAcceptedAndRejected :
    (∃ r, decode 0x00000100#32 = .error r) ∧ (idleWith (hostW 0x00C#32 0x00000100#32)).cfg.WF ∧
    (idleWith (hostW 0x00C#32 0x00000100#32)).busy = false ∧
    (idleWith (hostW 0x00C#32 0x00000100#32)).inbox = .bus (.write 0x00C#32 32 0x00000100#32) :: [] ∧
    (∃ r, decode (State.reset.placeCommand 0x000000FF#32).pend = .error r) ∧
    (State.reset.placeCommand 0x000000FF#32).seqTurn = true :=
  ⟨⟨.reservedBits, by decide⟩, by decide, by decide, by decide, ⟨.unassignedOp, by decide⟩, by decide⟩

theorem witness_StepRunsDecodedCommand :
    (State.reset.placeCommand 0x000000F0#32).seqTurn = true ∧
    decode (State.reset.placeCommand 0x000000F0#32).pend = .ok .clear := by decide

theorem witness_CmdWriteIssuesOrIsDropped :
    ((idleWith (hostW 0x00C#32 0x10#32)).cfg.WF ∧ (idleWith (hostW 0x00C#32 0x10#32)).busy = false ∧
      (idleWith (hostW 0x00C#32 0x10#32)).inbox = .bus (.write 0x00C#32 32 0x10#32) :: []) ∧
    (busyWith (hostW 0x00C#32 0x20#32)).cfg.WF ∧ (busyWith (hostW 0x00C#32 0x20#32)).busy = true ∧
      (busyWith (hostW 0x00C#32 0x20#32)).seqTurn = false ∧
      (busyWith (hostW 0x00C#32 0x20#32)).inbox = .bus (.write 0x00C#32 32 0x20#32) :: [.wait, .wait] := by decide

/-- No delay left, a delay that runs out, and a reset. -/
theorem witness_BusyCommandComesNearer :
    ((State.reset.placeCommand 0#32).busy = true ∧ (State.reset.placeCommand 0#32).delay = 0 ∧
      ∃ t, step (State.reset.placeCommand 0#32) = .next t ∧ t.busy = false) ∧
    ((busyWith .wait).busy = true ∧ ∃ t, step (busyWith .wait) = .next t ∧ t.busy = true) ∧
    (busyWith .reset).busy = true ∧ ∃ t, step (busyWith .reset) = .next t ∧ t.busy = false :=
  ⟨⟨by decide, by decide, exists_next (by decide)⟩, ⟨by decide, exists_next (by decide)⟩, by decide,
    exists_next (by decide)⟩

theorem witness_EveryCommandCompletes :
    ∃ t, exec .macUpdate macState = .next t ∧ t.done = true := exists_next (by decide +kernel)

theorem witness_StatusCodesOfCommands :
    ∃ t, exec .aeadDec { State.reset with aPtr := 0x2000#32, aLen := 1#32, tPtr := 4#32, tLen := 8#32 } = .next t ∧
      t.err = .eRange := exists_next (by decide)

/-- One precondition error of each code that a command raises, an illegal word, and E_AUTH. -/
theorem witness_PreconditionErrorsChangeNothingElse :
    (∃ t, exec .macFinal State.reset = .next t ∧ t.err = .eMacState) ∧
    (∃ t, exec .macUpdate { macState with tPtr := 0xFF0#32, tLen := 0x20#32 } = .next t ∧ t.err = .eRange) ∧
    (∃ t, exec .aeadEnc { State.reset with aLen := 8#32, tPtr := 4#32, tLen := 8#32 } = .next t ∧ t.err = .eOverlap) ∧
    (∃ t, execIllegal State.reset = .next t ∧ t.err = .eIllegal) ∧
    ∃ t, exec .aeadDec aeadSix = .next t ∧ t.err = .eAuth :=
  ⟨exists_next (by decide), exists_next (by decide +kernel), exists_next (by decide), exists_next (by decide),
    exists_next (by decide +kernel)⟩

/-- Each clause at a value just past its bound: 0x1001 for a region of DMEM_BYTES = 0x1000, one shared byte. -/
theorem witness_FirstFailingCheckDecides :
    ((State.reset.placeCommand 0x11#32).seqTurn = true ∧ ∃ r, decode (State.reset.placeCommand 0x11#32).pend = .error r) ∧
    (State.reset.mac.st ≠ .active) ∧
    (let s := { macState with tPtr := 0x1000#32, tLen := 1#32 }
     s.mac.st = .active ∧ s.tPtr.toNat + s.tLen.toNat > s.cfg.dmemBytes) ∧
    (let s := { State.reset with aPtr := 0x1001#32 }
     s.aPtr.toNat + s.aLen.toNat > s.cfg.dmemBytes) ∧
    (let s := { State.reset with tPtr := 0xFFFFFFFF#32, tLen := 2#32 }
     s.aPtr.toNat + s.aLen.toNat ≤ s.cfg.dmemBytes ∧ s.tPtr.toNat + s.tLen.toNat > s.cfg.dmemBytes) ∧
    (let s := { State.reset with aLen := 8#32, tPtr := 7#32, tLen := 1#32 }
     s.aPtr.toNat + s.aLen.toNat ≤ s.cfg.dmemBytes ∧ s.tPtr.toNat + s.tLen.toNat ≤ s.cfg.dmemBytes ∧
      0 < s.aLen.toNat ∧ 0 < s.tLen.toNat ∧ s.aPtr.toNat < s.tPtr.toNat + s.tLen.toNat ∧
      s.tPtr.toNat < s.aPtr.toNat + s.aLen.toNat) ∧
    ∃ t, exec .aeadDec aeadSix = .next t ∧ t.err = .eAuth :=
  ⟨⟨by decide, ⟨.unassignedOp, by decide⟩⟩, by decide, by decide, by decide, by decide, by decide,
    exists_next (by decide +kernel)⟩

theorem witness_NopOnlyCompletes :
    (idleWith (hostW 0x00C#32 0#32)).cfg.WF ∧ (idleWith (hostW 0x00C#32 0#32)).busy = false ∧
    (idleWith (hostW 0x00C#32 0#32)).inbox = .bus (.write 0x00C#32 32 0x00000000#32) :: [] := by decide

theorem witness_CtEqIffEqual : (zeros 16).length = 16 ∧ (zeros 15 ++ [1#8]).length = 16 := by decide

theorem witness_BlockIsTenDoubleRoundsPlusInput :
    initialMatrix (zeros 32) 1#32 (zeros 12) =
      #v[0x61707865#32, 0x3320646E#32, 0x79622D32#32, 0x6B206574#32,
         le32 (zeros 32) 0, le32 (zeros 32) 4, le32 (zeros 32) 8, le32 (zeros 32) 12, le32 (zeros 32) 16,
         le32 (zeros 32) 20, le32 (zeros 32) 24, le32 (zeros 32) 28,
         1#32, le32 (zeros 12) 0, le32 (zeros 12) 4, le32 (zeros 12) 8] := by decide +kernel

/-- Indices at both ends, and V-QR1's words for the equations. -/
theorem witness_QuarterRoundTouchesFourWords :
    ([0, 5, 10, 15] : List (Fin 16)).Nodup ∧ (0xea2a92f4#32, 0xcb1cf8ce#32, 0x4581472e#32, 0x5881c4bb#32) =
      (let W : KsgMatrix := (((Vector.replicate 16 0#32).set 0 0x11111111#32).set 5 0x01020304#32).set 10 0x9b8d6f43#32
          |>.set 15 0x01234567#32
       let V := qr W 0 5 10 15
       (V[0], V[5], V[10], V[15])) := by decide +kernel

theorem witness_DisjointQuarterRoundsCommute : ([0, 4, 8, 12, 1, 5, 9, 13] : List (Fin 16)).Nodup := by decide

theorem witness_MacInitOpensSession :
    State.reset.keyBytes = zeros 32 ∧ ∃ t, exec .macInit State.reset = .next t ∧ t.mac.st = .active :=
  ⟨by decide, exists_next (by decide)⟩

theorem witness_ClampingIsOneMask : (List.replicate 16 0xff#8).length = 16 := by decide

/-- No session; a region one byte too long; a region that ends at DMEM_BYTES; a written and an unwritten region; an empty
region at DMEM_BYTES. -/
theorem witness_MacUpdateAbsorbsText :
    State.reset.mac.st ≠ .active ∧
    (let s := { macState with tPtr := 0xFFF#32, tLen := 2#32 }
     s.mac.st = .active ∧ s.tPtr.toNat + s.tLen.toNat > s.cfg.dmemBytes) ∧
    (let s := { macState with dmem := [(0xFFF, 5#8)], tPtr := 0xFFF#32, tLen := 1#32 }
     s.mac.st = .active ∧ s.tPtr.toNat + s.tLen.toNat ≤ s.cfg.dmemBytes ∧ s.readT = some [5#8]) ∧
    (let s := { macState with tLen := 35#32 }
     s.mac.st = .active ∧ s.tPtr.toNat + s.tLen.toNat ≤ s.cfg.dmemBytes ∧ s.readT = none) ∧
    let s := { macState with tPtr := 0x1000#32, tLen := 0#32 }
    s.mac.st = .active ∧ s.tLen = 0#32 ∧ s.tPtr.toNat ≤ s.cfg.dmemBytes := by decide +kernel

/-- A busy CORE with an open session meets the invariant. -/
theorem witness_invariant : CoreInv { macState with busy := true, pend := 0x21#32 } where
  cfgWF := by decide
  dmemWf := by decide +kernel
  dmemInRange := by decide +kernel
  busyNotDone := by decide
  idleNoCommand := by decide
  otkZero := by decide
  etagZero := by decide
  noSessionZero := by decide
  rlClamped := by decide +kernel
  bufTailZero := by decide

theorem witness_MacUpdateAbsorbsText_invariant :
    CoreInv { macState with busy := true, pend := 0x21#32, tLen := 0#32 } :=
  { witness_invariant with }

/-- V-MAC3's split. -/
theorem witness_TwoMacUpdatesAreOne :
    macState.cfg.WF ∧
    ∃ t1, exec .macUpdate { macState with tPtr := 0#32, tLen := 5#32 } = .next t1 ∧ t1.err = .ok ∧
      ∃ t2, exec .macUpdate { t1 with tPtr := 0#32 + 5#32, tLen := 29#32 } = .next t2 ∧ t2.err = .ok := by
  refine ⟨by decide, { macState with mac := macAbsorb macState.mac (macMessage.take 5), tLen := 5#32, done := true }, ?_, rfl,
    exists_next (by decide +kernel)⟩
  have h : State.readT { macState with tPtr := 0#32, tLen := 5#32 } = some (macMessage.take 5) := by decide +kernel
  have hc : State.macUpdateCheck { macState with tPtr := 0#32, tLen := 5#32 } = none := by decide
  simp only [exec, execMacUpdate, h, hc]
  rfl

theorem witness_MacFinalWritesTag :
    State.reset.mac.st ≠ .active ∧ macState.mac.st = .active ∧ (zeros 32).length = 32 ∧
    (∃ t, exec .macInit State.reset = .next t ∧ t.tag = State.reset.tag) ∧
    macState.mac.bufLen.val = 0 ∧ 0 < (macAbsorb macState.mac (zeros 31)).bufLen.val :=
  ⟨by decide, by decide, by decide, exists_next (by decide), by decide, by decide +kernel⟩

/-- The limbs at their bounds, the clamp at its limit, and blocks of 16, 1 and 15 bytes. -/
theorem witness_LimbBlockStepRefinesValue :
    LimbsBounded #v[0x3FFFFFF#32, 0x400003F#32, 0x3FFFFFF#32, 0x3FFFFFF#32, 0x3FFFFFF#32] ∧
    (∀ k : Fin 5, clampMask[k] &&& clampMask[k] = clampMask[k]) ∧
    (zeros 16).length = 16 ∧ (1 ≤ (zeros 1).length ∧ (zeros 1).length ≤ 15) ∧
    1 ≤ (zeros 15).length ∧ (zeros 15).length ≤ 15 := by
  unfold LimbsBounded
  decide

theorem witness_LimbReductionIsCanonical :
    LimbsBounded #v[0x3FFFFFB#32, 0x3FFFFFF#32, 0x3FFFFFF#32, 0x3FFFFFF#32, 0x3FFFFFF#32] := by
  unfold LimbsBounded
  decide

theorem witness_PadAdditionInWords :
    LimbsSmall #v[0x3FFFFFF#32, 0x3FFFFFF#32, 0x3FFFFFF#32, 0x3FFFFFF#32, 0x3FFFFFF#32] := by
  unfold LimbsSmall
  decide

theorem witness_LimbTagEqualsValueTag : (wordsBytes macKey.toList).length = 32 := by decide

/-- Neighbouring regions that end at DMEM_BYTES; an overlap of one byte; an unwritten byte. -/
theorem witness_AeadEncSealsInPlace :
    (let s := { State.reset with dmem := [(0xFFE, 1#8), (0xFFF, 2#8)], aPtr := 0xFFE#32, aLen := 1#32, tPtr := 0xFFF#32,
                                 tLen := 1#32 }
     s.aPtr.toNat + s.aLen.toNat ≤ s.cfg.dmemBytes ∧ s.tPtr.toNat + s.tLen.toNat ≤ s.cfg.dmemBytes ∧
      s.regionsOverlap = false ∧ s.readA = some [1#8] ∧ s.readT = some [2#8]) ∧
    State.aeadCheck { State.reset with aPtr := 0xFFF#32, aLen := 2#32 } = some .eRange ∧
    State.aeadCheck { State.reset with aLen := 8#32, tPtr := 7#32, tLen := 8#32 } = some .eOverlap ∧
    let s := { State.reset with tLen := 1#32 }
    s.aeadCheck = none ∧ s.readT = none := by decide

/-- V-AEAD6: the right tag, and a wrong one. -/
theorem witness_AeadDecOpensIfAuthentic :
    (aeadSixSealed.aPtr.toNat + aeadSixSealed.aLen.toNat ≤ aeadSixSealed.cfg.dmemBytes ∧
      aeadSixSealed.tPtr.toNat + aeadSixSealed.tLen.toNat ≤ aeadSixSealed.cfg.dmemBytes ∧
      aeadSixSealed.regionsOverlap = false ∧ aeadSixSealed.readA = some [] ∧ aeadSixSealed.readT = some [0x9f#8] ∧
      aeadTag aeadSixSealed.keyBytes aeadSixSealed.nonceBytes [] [0x9f#8] = aeadSixSealed.tagBytes ∧
      aeadTag aeadSixSealed.keyBytes aeadSixSealed.nonceBytes [] [0x9e#8] ≠ aeadSixSealed.tagBytes) ∧
    State.aeadCheck { State.reset with tPtr := 0x1001#32 } = some .eRange ∧
    State.aeadCheck { State.reset with aLen := 1#32 } = none ∧ State.readA { State.reset with aLen := 1#32 } = none := by
  decide +kernel

theorem witness_EncryptThenDecryptRoundTrips :
    (∃ t, exec .aeadEnc aeadSix = .next t ∧ t.err = .ok) ∧ aeadSix.dmem.wf :=
  ⟨exists_next (by decide +kernel), by decide +kernel⟩

/-- A success that changes DMEM, and a failure. -/
theorem witness_DecryptReleasesOnlyAuthentic :
    (∃ t, exec .aeadDec aeadSixSealed = .next t ∧ t.dmem ≠ aeadSixSealed.dmem) ∧
    ∃ t, exec .aeadDec aeadSix = .next t ∧ t.err ≠ .ok :=
  ⟨exists_next (by decide +kernel), exists_next (by decide +kernel)⟩

theorem witness_ChangedTagAlwaysFails :
    (∃ t, exec .aeadDec aeadSixSealed = .next t ∧ t.err = .ok) ∧
      aeadSixSealed.tag.set 3 0x305b081b#32 ≠ aeadSixSealed.tag :=
  ⟨exists_next (by decide +kernel), by decide⟩

theorem witness_AeadEndsDirectSession :
    (∃ t, exec .aeadEnc aeadSix = .next t ∧ t.err = .ok) ∧ (∃ t, exec .aeadDec aeadSix = .next t ∧ t.err = .eAuth) ∧
    (∃ t, exec .aeadEnc { macState with tPtr := 0x2000#32, tLen := 0#32 } = .next t ∧ t.err = .eRange ∧
      t.mac.st = .active) ∧
    ∃ t, exec .aeadDec { macState with aLen := 8#32, tPtr := 7#32 } = .next t ∧ t.err = .eOverlap :=
  ⟨exists_next (by decide +kernel), exists_next (by decide +kernel), exists_next (by decide +kernel),
    exists_next (by decide +kernel)⟩

theorem witness_CommandsKeepOperandRegisters :
    ∃ t, exec .aeadDec aeadSixSealed = .next t ∧ t.tag = aeadSixSealed.tag := exists_next (by decide +kernel)

/-- A command that stores nothing; one that stores one byte at 16, with 15 and 17 just outside. -/
theorem witness_OnlyAeadWritesText :
    (∃ t, exec .macUpdate macState = .next t ∧ t.dmem.byte? 0 = some 0x43#8) ∧
    (∃ t, exec .aeadEnc aeadSix = .next t ∧ t.dmem.byte? 17 = some 0xaa#8) ∧
    15 < aeadSix.textAddr ∧ aeadSix.textAddr + aeadSix.tLen.toNat ≤ 17 :=
  ⟨exists_next (by decide +kernel), exists_next (by decide +kernel), by decide, by decide⟩

theorem witness_MacLifecycle : ∃ t, exec .macFinal macState = .next t ∧ t.mac.st = .finalized :=
  exists_next (by decide +kernel)

theorem witness_OnlyComparisonsWriteEq :
    (∃ t, exec .nop { State.reset with eq := true } = .next t ∧ t.eq = true) ∧
    (∃ t, exec .aeadDec { State.reset with eq := true, aLen := 8#32, tPtr := 4#32, tLen := 8#32 } = .next t ∧
      t.err = .eOverlap) ∧
    (∃ t, exec .ctEq State.reset = .next t ∧ t.eq = true) ∧ (∃ t, exec .aeadDec aeadSixSealed = .next t ∧ t.err = .ok) ∧
    (∃ t, exec .aeadDec aeadSix = .next t ∧ t.err = .eAuth) ∧ (∃ t, exec .clear State.reset = .next t ∧ t.eq = false) ∧
    ∃ t, execIllegal { State.reset with eq := true } = .next t ∧ t.eq = true :=
  ⟨exists_next (by decide), exists_next (by decide), exists_next (by decide), exists_next (by decide +kernel),
    exists_next (by decide +kernel), exists_next (by decide), exists_next (by decide)⟩

/-- Every locked range at both of its ends, a read and a write. -/
theorem witness_LockedWhileBusy :
    ∀ o ∈ [0x00C, 0x010, 0x06C, 0x080, 0x0BC, 0x1000, 0x1FFC], let off := BitVec.ofNat 32 o;
      ∀ x ∈ [hostR off, hostW off 1#32],
        (busyWith x).cfg.WF ∧ (busyWith x).busy = true ∧ (busyWith x).seqTurn = false ∧ off.toNat % 4 = 0 ∧
        (off.toNat = 0x00C ∨ (0x010 ≤ off.toNat ∧ off.toNat ≤ 0x06C) ∨ (0x080 ≤ off.toNat ∧ off.toNat ≤ 0x0BC) ∨
          (0x1000 ≤ off.toNat ∧ off.toNat < 0x1000 + (busyWith x).cfg.dmemBytes)) ∧
        (busyWith x).inbox = x :: [.wait, .wait] ∧ State.reset.busy = false := by decide +kernel

theorem witness_ControlRegistersNeverLock :
    ∀ o ∈ [0x000, 0x004, 0x008], let off := BitVec.ofNat 32 o; ∀ x ∈ [hostR off, hostW off 0x42#32],
      (busyWith x).cfg.WF ∧ (busyWith x).seqTurn = false ∧ (busyWith x).inbox = x :: [.wait, .wait] ∧
      (idleWith x).seqTurn = false ∧ (idleWith x).inbox = x :: [] := by decide +kernel

theorem witness_ReservedSpaceReadsZero :
    ∀ o ∈ [0x070, 0x07C, 0x0C0, 0xFFC, 0x2000, 0xFFFC], let off := BitVec.ofNat 32 o; ∀ x ∈ [hostR off, hostW off 1#32],
      (busyWith x).cfg.WF ∧ (busyWith x).seqTurn = false ∧ off.toNat % 4 = 0 ∧
      off.toNat < 2 ^ (busyWith x).cfg.addrW ∧
      ((0x070 ≤ off.toNat ∧ off.toNat ≤ 0x07C) ∨ (0x0C0 ≤ off.toNat ∧ off.toNat ≤ 0xFFC) ∨
        0x1000 + (busyWith x).cfg.dmemBytes ≤ off.toNat) ∧ (busyWith x).inbox = x :: [.wait, .wait] := by decide +kernel

theorem witness_OperandRegistersAtTheirOffsets :
    State.reset.cfg.WF ∧ State.reset.busy = false ∧
    ∀ o ∈ [0x010, 0x01C, 0x040, 0x06C], let off := BitVec.ofNat 32 o; off.toNat % 4 = 0 ∧
      ((0x010 ≤ off.toNat ∧ off.toNat ≤ 0x01C) ∨ (0x040 ≤ off.toNat ∧ off.toNat ≤ 0x06C)) := by decide +kernel

/-- The first and the last word of DMEM, written and unwritten. -/
theorem witness_DmemWindowIsLittleEndian :
    (∀ k ∈ [0, 1023], State.reset.cfg.WF ∧ State.reset.busy = false ∧ 4 * k < State.reset.cfg.dmemBytes ∧
      (BitVec.ofNat 32 (0x1000 + 4 * k)).toNat = 0x1000 + 4 * k ∧
      ∀ j : Fin 4, Memory.byte? (Memory.write [] (4 * k) [1#8, 2#8, 3#8, 4#8]) (4 * k + j.val) =
        some (#v[1#8, 2#8, 3#8, 4#8][j])) ∧
    ∃ j : Fin 4, State.reset.dmem.byte? (4 * 1023 + j.val) = none :=
  ⟨by decide +kernel, 3, by decide⟩

theorem witness_MisalignedTransactionsFault :
    ∀ x ∈ [Transaction.read 0x002#32 32, .write 0x003#32 32 0#32, .read 0x004#32 16, .write 0x004#32 64 0#32],
      (idleWith (.bus x)).seqTurn = false ∧ (idleWith (.bus x)).inbox = .bus x :: [] ∧
      (x.off.toNat % 4 ≠ 0 ∨ x.size ≠ 32) := by decide

/-- The first offset outside the host space; the last byte of a T region and of an A region unwritten. -/
theorem witness_UnwrittenReadsAndOutsideOffsetsFault :
    (let x := Transaction.read 0x10000#32 32
     (idleWith (.bus x)).seqTurn = false ∧ (idleWith (.bus x)).inbox = .bus x :: [] ∧ x.off.toNat % 4 = 0 ∧ x.size = 32 ∧
      2 ^ (idleWith (.bus x)).cfg.addrW ≤ x.off.toNat) ∧
    (let s := { macState with tLen := 35#32 }
     s.mac.st = .active ∧ s.tPtr.toNat + s.tLen.toNat ≤ s.cfg.dmemBytes ∧ s.tPtr.toNat ≤ 34 ∧
      34 < s.tPtr.toNat + s.tLen.toNat ∧ s.dmem.byte? 34 = none) ∧
    (let s := { aeadSix with tLen := 5#32 }
     s.aeadCheck = none ∧ s.dmem.byte? 20 = none ∧ s.tPtr.toNat ≤ 20 ∧ 20 < s.tPtr.toNat + s.tLen.toNat) ∧
    let s := { aeadSix with aPtr := 0x1000#32 - 1#32, aLen := 1#32 }
    s.aeadCheck = none ∧ s.dmem.byte? 0xFFF = none ∧ s.aPtr.toNat ≤ 0xFFF ∧ 0xFFF < s.aPtr.toNat + s.aLen.toNat := by
  decide +kernel

/-- RB of 9 bytes takes three words, and its last byte is the first of the third. -/
theorem witness_HostProgramLinesExpand :
    [1#32, 2#32, 3#32].length = (9 + 3) / 4 ∧ (zeros 32).length = 32 ∧ (zeros 12).length = 12 ∧ (zeros 16).length = 16 ∧
    (busyWith .wait).seqTurn = false ∧ (busyWith .wait).inbox = .wait :: [.wait, .wait] ∧ (busyWith .wait).busy = true ∧
    (idleWith .wait).seqTurn = false ∧ (idleWith .wait).inbox = .wait :: [] ∧ (idleWith .wait).busy = false := by decide

theorem witness_MemReadAndMemWrite : Memory.wf [(0, 1#8), (7, 2#8)] := by decide

theorem witness_ResetInputResetsEverything :
    (busyWith .reset).seqTurn = false ∧ (busyWith .reset).inbox = .reset :: [.wait, .wait] := by decide

/-- The smallest and the largest DMEM. -/
theorem witness_InvariantHoldsAtReset : (Config.mk 64 13 0#32).WF ∧ (Config.mk (2 ^ 32 - 4096) 32 0#32).WF := by decide

theorem witness_EveryStepKeepsInvariant :
    CoreInv { macState with busy := true, pend := 0x21#32 } ∧
    ∃ t, step { macState with busy := true, pend := 0x21#32 } = .next t ∧ t.err = .ok :=
  ⟨witness_invariant, exists_next (by decide +kernel)⟩

/-- Two states that differ in KEY and in the session's key. -/
theorem witness_HostNeverReadsSecrets :
    let s := { idleWith (hostR 0x020#32) with key := macKey, mac := macState.mac }
    let t := { idleWith (hostR 0x020#32) with mac := macInit (zeros 32) }
    s ≠ t ∧ s.hideSecrets = t.hideSecrets ∧ s.seqTurn = false := by decide +kernel

/-- Two busy states that differ in DMEM, TAG and the command. -/
theorem witness_BusyHostLearnsNothing :
    let s := { busyWith (hostR 0x1000#32) with dmem := memory macMessage, tag := .replicate 4 1#32, pend := 0x31#32 }
    let t := busyWith (hostR 0x1000#32)
    s ≠ t ∧ s.hideLocked = t.hideLocked ∧ s.busy = true ∧ s.seqTurn = false := by decide +kernel

theorem witness_ScheduleIgnoresData :
    let s := { busyWith (hostR 0x1000#32) with dmem := memory macMessage }
    let t := busyWith (hostR 0x1000#32)
    s.busy = t.busy ∧ s.delay = t.delay ∧ s.lats = t.lats ∧ s.inbox = t.inbox ∧ s.cfg = t.cfg ∧
    (∃ s', step s = .next s' ∧ s'.haz = true) ∧ ∃ t', step t = .next t' ∧ t'.haz = true :=
  ⟨rfl, rfl, rfl, rfl, rfl, exists_next (by decide +kernel), exists_next (by decide)⟩

end Sys2Proof.Tests
end

namespace Sys2Proof.Machine

/-! ## The invariant and every step (10_state.md R29, R31, R47; 20_memory.md R60; 41_mac.md R153, R157) -/

/-- The invariant's part about DMEM: canonical form, and no offset past DMEM_BYTES. -/
structure MemInv (c : Config) (m : Memory) : Prop where
  wf : m.wf
  inRange : ∀ x ∈ m, x.1 < c.dmemBytes

/-- The invariant's part about a MAC state. -/
structure MacInv (m : MacState) : Prop where
  noSession : m.st ≠ .active → m = .zeroized m.st
  clamped : ∀ k : Fin 5, m.rl[k] &&& clampMask[k] = m.rl[k]
  tailZero : ∀ i : Fin 15, m.bufLen.val ≤ i.val → m.buf[i] = 0#8

/-- The invariant's part about the command in progress. -/
structure CommandInv (s : State) : Prop where
  busyNotDone : s.busy = true → s.done = false
  idle : s.busy = false → s.pend = 0#32 ∧ s.delay = 0

/-- The invariant by the part of the state it speaks of. -/
theorem coreInv_iff (s : State) :
    CoreInv s ↔ s.cfg.WF ∧ MemInv s.cfg s.dmem ∧ CommandInv s ∧
      (s.otk = .replicate 32 0#8 ∧ s.etag = .replicate 16 0#8) ∧ MacInv s.mac := by
  constructor
  · intro h
    exact ⟨h.cfgWF, ⟨h.dmemWf, h.dmemInRange⟩, ⟨h.busyNotDone, h.idleNoCommand⟩, ⟨h.otkZero, h.etagZero⟩,
      ⟨h.noSessionZero, h.rlClamped, h.bufTailZero⟩⟩
  · rintro ⟨hc, hm, hs, ⟨ho, he⟩, ha⟩
    exact ⟨hc, hm.wf, hm.inRange, hs.busyNotDone, hs.idle, ho, he, ha.noSession, ha.clamped, ha.tailZero⟩

/-! DMEM. -/

/-- A write inside DMEM keeps DMEM canonical and in range (20_memory.md R71). -/
theorem MemInv.write {c : Config} {m : Memory} (h : MemInv c m) {a : Nat} {B : List Byte}
    (hr : a + B.length ≤ c.dmemBytes) : MemInv c (m.write a B) where
  wf := wf_write h.wf a B
  inRange x hx := by
    obtain ⟨_, hlt⟩ | hx := mem_write hx
    · omega
    · exact h.inRange x hx

/-- Writing the text back stays inside a T region that passed its check (42_aead.md R201, R206, R207). -/
theorem MemInv.writeText {s : State} (h : MemInv s.cfg s.dmem) (hc : s.aeadCheck = none) {D : List Byte}
    (hD : s.readT = some D) (K N : List Byte) : MemInv s.cfg (s.dmem.write s.textAddr (keyStreamXor K N D)) := by
  apply h.write
  obtain ⟨_, hT, _⟩ := (aeadCheck_eq_none_iff s).mp hc
  rw [keyStreamXor_length, read_length hD]
  exact (regionValid_iff s _ _).mp hT

/-! The MAC state. -/

theorem macInv_zeroized (st : MacSt) : MacInv (.zeroized st) where
  noSession _ := rfl
  clamped k := by simp
  tailZero i _ := by simp

/-- Clamping leaves no bit outside the masks (41_mac.md R153). -/
theorem clampLimbs_masked (r : List Byte) (k : Fin 5) : (clampLimbs r)[k] &&& clampMask[k] = (clampLimbs r)[k] := by
  simp only [clampLimbs, Fin.getElem_fin, Vector.getElem_ofFn]
  apply BitVec.eq_of_getLsbD_eq
  intro i hi
  simp [hi]

theorem macInv_macInit (OTK : List Byte) : MacInv (macInit OTK) where
  noSession h := absurd rfl h
  clamped := clampLimbs_masked _
  tailZero i _ := by simp [macInit]

/-- A store of a byte string is zero past its end. -/
theorem bytesStore_past_end {n : Nat} {B : List Byte} (i : Fin n) (h : B.length ≤ i.val) : (bytesStore n B)[i] = 0#8 := by
  simp [bytesStore, List.getD_eq_getElem?_getD, List.getElem?_eq_none h]

/-- Absorbing into an open session keeps it clamped and its buffer tail zero (41_mac.md R157). -/
theorem MacInv.absorb {m : MacState} (h : MacInv m) (ha : m.st = .active) (D : List Byte) :
    MacInv (macAbsorb m D) where
  noSession hst := absurd ha hst
  clamped := h.clamped
  tailZero i hi := by
    rw [← pending_length, macAbsorb_pending] at hi
    exact bytesStore_past_end i hi

/-! Commands. -/

/-- The invariant does not speak of the rest of the state: equal parameters, DMEM, command, OTK, ETAG and MAC state, and a
DONE that is not set anew, keep it. -/
theorem CoreInv.frame {s t : State} (h : CoreInv s) (hcfg : t.cfg = s.cfg) (hdmem : t.dmem = s.dmem)
    (hbusy : t.busy = s.busy) (hdone : s.done = false → t.done = false) (hpend : t.pend = s.pend)
    (hdelay : t.delay = s.delay) (hz : t.otk = s.otk ∧ t.etag = s.etag) (hmac : t.mac = s.mac) : CoreInv t := by
  obtain ⟨hotk, hetag⟩ := hz
  rw [coreInv_iff] at h ⊢
  rw [hcfg, hdmem, hotk, hetag, hmac]
  obtain ⟨hc, hm, hs, hz, ha⟩ := h
  refine ⟨hc, hm, ⟨fun hb => ?_, fun hb => ?_⟩, hz, ha⟩
  · exact hdone (hs.busyNotDone (hbusy ▸ hb))
  · rw [hpend, hdelay]
    exact hs.idle (hbusy ▸ hb)

theorem CoreInv.setKs {s : State} (h : CoreInv s) (B : List Byte) : CoreInv (s.setKs B) := by
  apply h.frame <;> simp

theorem CoreInv.setTag {s : State} (h : CoreInv s) (T : List Byte) : CoreInv (s.setTag T) := by
  apply h.frame <;> simp

theorem CoreInv.forgetKsg {s : State} (h : CoreInv s) : CoreInv s.forgetKsg :=
  h.frame rfl rfl rfl id rfl rfl ⟨rfl, rfl⟩ rfl

/-- After a completion no command is in progress (60_exceptions.md R282). -/
theorem commandInv_complete (s : State) (c : Code) : CommandInv (s.complete c) where
  busyNotDone h := Bool.noConfusion h
  idle _ := ⟨rfl, rfl⟩

/-- Completing keeps the invariant. -/
theorem CoreInv.complete {s : State} (h : CoreInv s) (c : Code) : CoreInv (s.complete c) := by
  rw [coreInv_iff] at h ⊢
  obtain ⟨hc, hm, _, hz, ha⟩ := h
  exact ⟨hc, hm, commandInv_complete s c, hz, ha⟩

/-- The invariant in a completed state that has zeroized everything an AEAD command derives (42_aead.md R208). -/
theorem coreInv_zeroized {s t : State} (h : CoreInv s) (hcfg : t.cfg = s.cfg) (hm : MemInv s.cfg t.dmem)
    (ht : t = t.aeadZeroize.complete t.err) : CoreInv t := by
  rw [coreInv_iff, hcfg]
  refine ⟨h.cfgWF, hm, ?_, ?_, ?_⟩
  · rw [ht]
    exact commandInv_complete _ _
  · rw [ht]
    exact ⟨rfl, rfl⟩
  · rw [ht]
    exact macInv_zeroized .idle

/-- Every effect a command can have keeps the invariant. -/
theorem Effect.keeps_coreInv {s t : State} {i : Instr} (he : Effect s i t) (h : CoreInv s) : CoreInv t := by
  obtain ⟨hc, hm, -, hz, ha⟩ := (coreInv_iff s).mp h
  cases he with
  | nop => exact h.complete _
  | ksBlock => exact (h.setKs _).forgetKsg.complete _
  | macInit => exact (coreInv_iff _).mpr ⟨hc, hm, commandInv_complete _ _, hz, macInv_macInit _⟩
  | macUpdateError c _ => exact h.complete c
  | macUpdate D hk _ =>
    have hst := ((macUpdateCheck_eq_none_iff s).mp hk).1
    exact (coreInv_iff _).mpr ⟨hc, hm, commandInv_complete _ _, hz, ha.absorb hst D⟩
  | macFinalError c _ => exact h.complete c
  | macFinal _ =>
    obtain ⟨htc, htm, -, htz, -⟩ := (coreInv_iff _).mp (h.setTag s.mac.finalTag)
    exact (coreInv_iff _).mpr ⟨htc, htm, commandInv_complete _ _, htz, macInv_zeroized _⟩
  | aeadEncError c _ => exact h.complete c
  | aeadEnc A P hk _ hT => exact coreInv_zeroized h rfl (hm.writeText hk hT _ _) rfl
  | aeadDecError c _ => exact h.complete c
  | aeadDecOpen A C hk _ hT _ => exact coreInv_zeroized h rfl (hm.writeText hk hT _ _) rfl
  | aeadDecReject A C _ _ _ _ => exact coreInv_zeroized h rfl hm rfl
  | ctEq => exact (coreInv_iff _).mpr ⟨hc, hm, commandInv_complete _ _, hz, ha⟩
  | clear => exact coreInv_zeroized h rfl hm rfl

/-! The host port. -/

/-- Taking an input keeps the invariant: an idle CORE has no delay left to count down. -/
theorem CoreInv.takeInput {s : State} (h : CoreInv s) (rest : List HostInput) : CoreInv (s.takeInput rest) := by
  rw [coreInv_iff] at h ⊢
  obtain ⟨hc, hm, hs, hz, ha⟩ := h
  refine ⟨hc, hm, ⟨hs.busyNotDone, fun hb => ?_⟩, hz, ha⟩
  obtain ⟨hp, hd⟩ := hs.idle hb
  exact ⟨hp, by rw [takeInput_delay, hd]⟩

theorem CoreInv.setHaz {s : State} (h : CoreInv s) : CoreInv s.setHaz :=
  h.frame rfl rfl rfl id rfl rfl ⟨rfl, rfl⟩ rfl

theorem CoreInv.noteRead {s : State} (h : CoreInv s) (off v : Word) : CoreInv (s.noteRead off v) :=
  h.frame rfl rfl rfl id rfl rfl ⟨rfl, rfl⟩ rfl

/-- Issue keeps the invariant: it clears DONE as it sets BUSY (60_exceptions.md R280). -/
theorem CoreInv.issue {s : State} (h : CoreInv s) (v : Word) : CoreInv (s.issue v) := by
  rw [coreInv_iff] at h ⊢
  obtain ⟨hc, hm, _, hz, ha⟩ := h
  exact ⟨hc, hm, ⟨fun _ => rfl, fun hb => Bool.noConfusion hb⟩, hz, ha⟩

/-- The reset input establishes the invariant afresh (70_reset_and_hazards.md R321 to R324). -/
theorem CoreInv.resetNow {s : State} (h : CoreInv s) : CoreInv s.resetNow := by
  rw [coreInv_iff]
  exact ⟨h.cfgWF, ⟨List.Pairwise.nil, fun _ hx => absurd hx List.not_mem_nil⟩,
    ⟨fun hb => Bool.noConfusion hb, fun _ => ⟨rfl, rfl⟩⟩, ⟨rfl, rfl⟩, macInv_zeroized .idle⟩

/-- A host write of an unlocked location keeps the invariant; a DMEM word has to lie inside DMEM. -/
theorem CoreInv.writeLoc {s : State} (h : CoreInv s) (l : Loc) (v : Word)
    (hl : ∀ k, l = .dmem k → k + 4 ≤ s.cfg.dmemBytes) : CoreInv (s.writeLoc l v) := by
  cases l with
  | cmd => exact h.issue v
  | dmem k =>
    obtain ⟨hc, hm, hs, hz, ha⟩ := (coreInv_iff s).mp h
    have hr : k + (wordBytes v).length ≤ s.cfg.dmemBytes := by
      rw [wordBytes_length]
      exact hl k rfl
    exact (coreInv_iff _).mpr ⟨hc, hm.write hr, ⟨hs.busyNotDone, hs.idle⟩, hz, ha⟩
  | status =>
    refine h.frame rfl rfl rfl (fun hd => ?_) rfl rfl ⟨rfl, rfl⟩ rfl
    simp [State.writeLoc, hd]
  | id | ks | reserved => exact h
  | ctrl | aPtr | aLen | tPtr | tLen | key | nonce | counter | tag | tagx =>
    exact h.frame rfl rfl rfl id rfl rfl ⟨rfl, rfl⟩ rfl

/-- An aligned offset that names a DMEM word names four bytes of DMEM (20_memory.md R67; DMEM_BYTES is a multiple of 4). -/
theorem dmemWord_inRange {c : Config} (hc : c.WF) {off k : Nat} (ha : off % 4 = 0) (hl : locOf c off = .dmem k) :
    k + 4 ≤ c.dmemBytes := by
  obtain ⟨h4, -⟩ := hc
  obtain ⟨rfl, hk⟩ := locOf_dmem hl
  omega

/-- Every input from outside keeps the invariant. -/
theorem CoreInv.perform {s t : State} {x : HostInput} (h : CoreInv s) (hx : s.perform x = .next t) : CoreInv t := by
  obtain ⟨off, -, -, hr⟩ | ⟨off, v, -, ⟨⟨halign, -⟩, -⟩, hw⟩ | ⟨-, rfl⟩ | ⟨-, rfl⟩ := perform_next hx
  · obtain ⟨-, rfl⟩ | ⟨-, v, -, rfl⟩ := hostRead_next hr
    · exact h.setHaz.noteRead off _
    · exact h.noteRead off v
  · obtain ⟨-, rfl⟩ | ⟨-, rfl⟩ := hostWrite_next hw
    · exact h.setHaz
    · exact h.writeLoc _ v fun k hk => dmemWord_inRange h.cfgWF halign hk
  · have hp := h.noteRead statusOff s.statusWord
    split
    · exact hp.frame rfl rfl rfl id rfl rfl ⟨rfl, rfl⟩ rfl
    · exact hp
  · exact h.resetNow

/-- Settles O56, by the four things a step can be: a command's effect, the completion of an illegal word, an idle step, or one
input from outside. -/
theorem everyStepKeepsInvariant : Obligations.EveryStepKeepsInvariant := by
  intro s t h hstep
  obtain ⟨-, i, -, hi⟩ | ⟨-, -, rfl⟩ | ⟨-, -, rfl⟩ | ⟨-, x, rest, -, hx⟩ := step_next hstep
  · exact (exec_next hi).keeps_coreInv h
  · exact h.complete _
  · exact h
  · exact (h.takeInput rest).perform hx

end Sys2Proof.Machine

namespace Sys2Proof.Machine

/-! ## What commands leave alone, the lifecycle of the MAC, and STATUS.EQ (10_state.md R30, R31, R37 to R42; D28) -/

/-- Settles O39, effect by effect: the updates of every command but CLEAR leave the operand registers alone, and the three
that reach TAG or KS are excluded by name. -/
theorem commandsKeepOperandRegisters : Obligations.CommandsKeepOperandRegisters := by
  intro i s t h
  cases exec_next h with
  | clear => exact ⟨fun hn => absurd rfl hn, fun hn => absurd rfl hn, fun hn => absurd rfl hn⟩
  | ksBlock => exact ⟨fun _ => by simp, fun _ _ _ => by simp, fun _ hn => absurd rfl hn⟩
  | macFinal _ => exact ⟨fun _ => by simp, fun _ hn _ => absurd rfl hn, fun _ _ => by simp⟩
  | aeadEnc A P _ _ _ => exact ⟨fun _ => by simp, fun _ _ hn => absurd rfl hn, fun _ _ => rfl⟩
  | nop | macInit | macUpdateError | macUpdate | macFinalError | aeadEncError | aeadDecError | aeadDecOpen
  | aeadDecReject | ctEq => exact ⟨fun _ => by simp, fun _ _ _ => rfl, fun _ _ => rfl⟩

/-- A failed check of MAC_FINAL means that no session is open (41_mac.md R167). -/
theorem not_active_of_macFinalCheck {s : State} {c : Code} (hc : s.macFinalCheck = some c) : s.mac.st ≠ .active := by
  intro hst
  simp [(macFinalCheck_eq_none_iff s).mpr hst] at hc

/-- Settles O41: the transition of each command is read off its effect, and reset zeroizes the MAC. -/
theorem macLifecycle : Obligations.MacLifecycle := by
  refine ⟨fun i s t h => ?_, fun _ => rfl⟩
  cases exec_next h with
  | nop | macInit | macUpdateError | macUpdate | ctEq | clear | aeadEnc | aeadDecOpen | aeadDecReject => rfl
  | ksBlock => simp
  | macFinalError c hc => simp [not_active_of_macFinalCheck hc]
  | macFinal hc => simp [(macFinalCheck_eq_none_iff s).mp hc]
  | aeadEncError c hc => obtain rfl | rfl := aeadCheck_code hc <;> rfl
  | aeadDecError c hc => obtain rfl | rfl := aeadCheck_code hc <;> rfl

/-! The comparison of CT_EQ and AEAD_DEC (43_cteq.md R240). -/

/-- The running or of byte differences ends at zero iff it starts at zero and no byte differs. -/
theorem foldl_or_xorBytes_eq_zero (a b : List Byte) (h : a.length = b.length) (acc : Byte) :
    (xorBytes a b).foldl (· ||| ·) acc = 0#8 ↔ acc = 0#8 ∧ a = b := by
  induction a generalizing b acc with
  | nil =>
    obtain rfl := List.length_eq_zero_iff.mp h.symm
    simp [xorBytes]
  | cons x a ih =>
    cases b with
    | nil => simp at h
    | cons y b =>
      have htail := ih b (by simpa using h) (acc ||| (x ^^^ y))
      simp only [xorBytes] at htail
      simp only [xorBytes, List.zipWith_cons_cons, List.foldl_cons, htail, BitVec.or_eq_zero_iff, BitVec.xor_eq_zero_iff,
        List.cons.injEq, and_assoc]

/-- CtEq finds exactly the equal strings of one length equal (43_cteq.md R240). -/
theorem ctEq_iff_eq {a b : List Byte} (h : a.length = b.length) : ctEq a b = true ↔ a = b := by
  simp [ctEq, ctEqAcc, foldl_or_xorBytes_eq_zero a b h]

/-- Settles O42, effect by effect: the ones that write EQ are CT_EQ, AEAD_DEC past its checks, and CLEAR. -/
theorem onlyComparisonsWriteEq : Obligations.OnlyComparisonsWriteEq := by
  refine ⟨fun i s t h => ?_, fun s t h => ?_, fun _ => rfl⟩
  · cases exec_next h with
    | nop | ksBlock | macInit | macUpdateError | macUpdate | macFinalError | macFinal | aeadEncError | aeadEnc
    | aeadDecOpen | aeadDecReject | clear => simp
    | aeadDecError c hc => obtain rfl | rfl := aeadCheck_code hc <;> simp
    | ctEq => simp [ctEq_iff_eq]
  · obtain rfl := Host.Outcome.next.inj h
    rfl

end Sys2Proof.Machine

namespace Sys2Proof.Machine

/-! ## The host port: registers at their offsets, faults, the word of STATUS, and secrecy (10_state.md R23, R24, R27, R37, R48
to R50) -/

/-! Which offset names which register. -/

/-- Register i of a run of n starts 4i bytes into the run (10_state.md R23). -/
theorem regIndex_add {n : Nat} [NeZero n] (base : Nat) (i : Fin n) : regIndex n base (base + 4 * i.val) = i := by
  apply Fin.ext
  rw [regIndex, Fin.val_ofNat, show (base + 4 * i.val - base) / 4 = i.val by omega, Nat.mod_eq_of_lt i.isLt]

/-- An offset below 0x1000 is its own 32-bit word. -/
theorem toNat_regOffset {off : Nat} (h : off < 0x1000) : (BitVec.ofNat 32 off).toNat = off := by
  rw [BitVec.toNat_ofNat, Nat.mod_eq_of_lt (by omega)]

theorem locOf_key (c : Config) (i : Fin 8) : locOf c (0x020 + 4 * i.val) = .key i := by
  rw [locOf, if_pos (by omega), regLoc, if_neg (by omega), if_pos (by omega), operandLoc, if_pos (by omega), regIndex_add]

theorem locOf_nonce (c : Config) (i : Fin 3) : locOf c (0x040 + 4 * i.val) = .nonce i := by
  rw [locOf, if_pos (by omega), regLoc, if_neg (by omega), if_pos (by omega), operandLoc, if_neg (by omega),
    if_pos (by omega), regIndex_add]

theorem locOf_tag (c : Config) (i : Fin 4) : locOf c (0x050 + 4 * i.val) = .tag i := by
  rw [locOf, if_pos (by omega), regLoc, if_neg (by omega), if_pos (by omega), operandLoc, if_neg (by omega),
    if_neg (by omega), if_neg (by omega), if_pos (by omega), regIndex_add]

theorem locOf_tagx (c : Config) (i : Fin 4) : locOf c (0x060 + 4 * i.val) = .tagx i := by
  rw [locOf, if_pos (by omega), regLoc, if_neg (by omega), if_pos (by omega), operandLoc, if_neg (by omega),
    if_neg (by omega), if_neg (by omega), if_neg (by omega), if_pos (by omega), regIndex_add]

theorem locOf_ks (c : Config) (i : Fin 16) : locOf c (0x080 + 4 * i.val) = .ks i := by
  rw [locOf, if_pos (by omega), regLoc, if_neg (by omega), if_neg (by omega), if_pos (by omega), regIndex_add]

/-- The locations that read back the word written to them: the RW operand registers (10_state.md R24). -/
def Loc.readsBack : Loc → Bool
  | .aPtr | .aLen | .tPtr | .tLen | .nonce _ | .counter | .tag _ | .tagx _ => true
  | .id | .ctrl | .status | .cmd | .key _ | .ks _ | .dmem _ | .reserved => false

/-- The offsets 0x010 to 0x01C and 0x040 to 0x06C name RW operand registers (10_state.md R23, R24). -/
theorem locOf_readsBack (c : Config) {off : Nat}
    (h : (0x010 ≤ off ∧ off < 0x020) ∨ (0x040 ≤ off ∧ off < 0x070)) : (locOf c off).readsBack = true := by
  obtain ⟨hlo, hhi⟩ | ⟨hlo, hhi⟩ := h
  · rw [locOf, if_pos (by omega), regLoc, if_pos hhi]
    rcases controlLoc_cases hhi with ⟨hb, _⟩ | ⟨_, hb, _⟩ | ⟨_, hb, _⟩ | ⟨_, hb, _⟩ | ⟨_, _, hl⟩ | ⟨_, _, hl⟩ | ⟨_, _, hl⟩ |
      ⟨_, hl⟩
    iterate 4 omega
    all_goals rw [hl]; rfl
  · rw [locOf, if_pos (by omega), regLoc, if_neg (by omega), if_pos (by omega)]
    rcases operandLoc_cases off with ⟨hb, _⟩ | ⟨_, _, hl⟩ | ⟨_, _, hl⟩ | ⟨_, _, hl⟩ | ⟨_, _, hl⟩ | ⟨hb, _⟩
    · omega
    iterate 4 rw [hl]; rfl
    · omega

/-- An RW operand register reads back what was written to it. -/
theorem readLoc_writeLoc {l : Loc} (h : l.readsBack = true) (s : State) (v : Word) :
    (s.writeLoc l v).readLoc l = some v := by
  cases l with
  | id | ctrl | status | cmd | key | ks | dmem | reserved => exact Bool.noConfusion h
  | aPtr | aLen | tPtr | tLen | counter => rfl
  | nonce | tag | tagx => simp [State.writeLoc, State.readLoc]

/-- Writing an RW operand register issues no command and changes no parameter. -/
theorem writeLoc_idle {l : Loc} (h : l.readsBack = true) (s : State) (v : Word) :
    (s.writeLoc l v).busy = s.busy ∧ (s.writeLoc l v).cfg = s.cfg := by
  cases l with
  | id | ctrl | status | cmd | key | ks | dmem | reserved => exact Bool.noConfusion h
  | aPtr | aLen | tPtr | tLen | counter | nonce | tag | tagx => exact ⟨rfl, rfl⟩

/-! Transactions on the register block while no command runs. -/

/-- An aligned write in the register block of an idle CORE reaches its location (10_state.md R24). -/
theorem transact_write_idle {s : State} {off v : Word} {l : Loc} (hc : s.cfg.WF) (hb : s.busy = false)
    (ha : off.toNat % 4 = 0) (hr : off.toNat < 0x1000) (hl : locOf s.cfg off.toNat = l) :
    s.transact (.write off 32 v) = .next (s.writeLoc l v) := by
  rw [transact_write ha (inSpace hc (by omega))]
  exact hostWrite_unlocked hl (isLocked_idle hb l)

/-- An aligned read in the register block of an idle CORE returns its location's value (10_state.md R24). -/
theorem transact_read_idle {s : State} {off v : Word} {l : Loc} (hc : s.cfg.WF) (hb : s.busy = false)
    (ha : off.toNat % 4 = 0) (hr : off.toNat < 0x1000) (hl : locOf s.cfg off.toNat = l) (hv : s.readLoc l = some v) :
    s.transact (.read off 32) = .next (s.noteRead off v) := by
  rw [transact_read ha (inSpace hc (by omega))]
  exact hostRead_unlocked hl (isLocked_idle hb l) hv

/-- The write of register i of a run. -/
theorem transact_write_run {s : State} {v : Word} {l : Loc} {base i : Nat} (hc : s.cfg.WF) (hb : s.busy = false)
    (ha : base % 4 = 0) (hr : base + 4 * i < 0x1000) (hl : locOf s.cfg (base + 4 * i) = l) :
    s.transact (.write (BitVec.ofNat 32 (base + 4 * i)) 32 v) = .next (s.writeLoc l v) := by
  have ho := toNat_regOffset hr
  exact transact_write_idle hc hb (by omega) (by omega) (by rw [ho, hl])

/-- The read of register i of a run. -/
theorem transact_read_run {s : State} {v : Word} {l : Loc} {base i : Nat} (hc : s.cfg.WF) (hb : s.busy = false)
    (ha : base % 4 = 0) (hr : base + 4 * i < 0x1000) (hl : locOf s.cfg (base + 4 * i) = l) (hv : s.readLoc l = some v) :
    s.transact (.read (BitVec.ofNat 32 (base + 4 * i)) 32) =
      .next (s.noteRead (BitVec.ofNat 32 (base + 4 * i)) v) := by
  have ho := toNat_regOffset hr
  exact transact_read_idle hc hb (by omega) (by omega) (by rw [ho, hl]) hv

/-- Settles O46: every register by the location its offset names; the RW registers read back by `readLoc_writeLoc`. -/
theorem operandRegistersAtTheirOffsets : Obligations.OperandRegistersAtTheirOffsets := by
  intro s v hc hb
  refine ⟨fun off ha hoff => ?_, ?_, ?_, ?_, ?_, ?_, fun i => ⟨?_, ?_⟩, fun i => ?_, ?_, fun i => ?_, fun i => ?_,
    fun i => ⟨?_, ?_⟩⟩
  · have hrange : (0x010 ≤ off.toNat ∧ off.toNat < 0x020) ∨ (0x040 ≤ off.toNat ∧ off.toNat < 0x070) := by omega
    have hback := locOf_readsBack s.cfg hrange
    obtain ⟨hbusy, hcfg⟩ := writeLoc_idle hback s v
    refine ⟨_, transact_write_idle hc hb ha (by omega) rfl, ?_⟩
    refine transact_read_idle ?_ (hbusy.trans hb) ha (by omega) ?_ (readLoc_writeLoc hback s v)
    · rw [hcfg]
      exact hc
    · rw [hcfg]
  · exact transact_read_idle hc hb (by decide) (by decide) (l := .cmd) rfl rfl
  · exact transact_write_idle hc hb (by decide) (by decide) (l := .aPtr) rfl
  · exact transact_write_idle hc hb (by decide) (by decide) (l := .aLen) rfl
  · exact transact_write_idle hc hb (by decide) (by decide) (l := .tPtr) rfl
  · exact transact_write_idle hc hb (by decide) (by decide) (l := .tLen) rfl
  · exact transact_write_run hc hb (by decide) (by omega) (locOf_key s.cfg i)
  · exact transact_read_run hc hb (by decide) (by omega) (locOf_key s.cfg i) rfl
  · exact transact_write_run hc hb (by decide) (by omega) (locOf_nonce s.cfg i)
  · exact transact_write_idle hc hb (by decide) (by decide) (l := .counter) rfl
  · exact transact_write_run hc hb (by decide) (by omega) (locOf_tag s.cfg i)
  · exact transact_write_run hc hb (by decide) (by omega) (locOf_tagx s.cfg i)
  · exact transact_write_run hc hb (by decide) (by omega) (locOf_ks s.cfg i)
  · exact transact_read_run hc hb (by decide) (by omega) (locOf_ks s.cfg i) rfl

/-! Faults. -/

/-- A region with an unwritten byte cannot be read (20_memory.md R70). -/
theorem read_eq_none {m : Memory} {a P L : Nat} (hlo : P ≤ a) (hhi : a < P + L) (h : m.byte? a = none) :
    m.read P L = none := by
  cases hr : m.read P L with
  | none => rfl
  | some B =>
    obtain ⟨hlen, hbyte⟩ := (read_eq_some_iff m P L B).mp hr
    have hval := hbyte (a - P) (by omega)
    rw [show P + (a - P) = a by omega, h, List.getElem?_eq_getElem (by omega)] at hval
    exact absurd hval (by simp)

/-- An AEAD command past its checks faults when one of its two regions cannot be read (10_state.md R50). -/
theorem exec_aead_unreadable {s : State} {i : Instr} (hi : i = .aeadEnc ∨ i = .aeadDec) (hc : s.aeadCheck = none)
    (hr : s.readA = none ∨ s.readT = none) : exec i s = .fault .unwrittenCommandRead := by
  obtain rfl | rfl := hi
  · simp only [exec, execAeadEnc, hc]
    split
    · rename_i hA hT
      simp [hA, hT] at hr
    · rfl
  · simp only [exec, execAeadDec, hc]
    split
    · rename_i hA hT
      simp [hA, hT] at hr
    · rfl

/-- An aligned 32-bit transaction outside the host space (20_memory.md R60; log 10). -/
theorem transact_outside {s : State} {x : Transaction} (ha : x.Aligned32) (hout : 2 ^ s.cfg.addrW ≤ x.off.toNat) :
    s.transact x = .fault .addressOutsideSpace := by
  unfold State.transact
  rw [if_neg (not_not.mpr ha), if_pos (Nat.not_lt.mpr hout)]

/-- Settles O50: the reads of the three commands fail on an unwritten byte, and an offset outside the host space fails the
second check of `State.transact`. -/
theorem unwrittenReadsAndOutsideOffsetsFault : Obligations.UnwrittenReadsAndOutsideOffsetsFault := by
  refine ⟨fun s x rest hs hx ha hsize hout => ?_, fun s a hst hr hlo hhi hnone => ?_, fun i s a hi hc hnone ha => ?_⟩
  · exact (step_input hs hx).trans (transact_outside ⟨ha, hsize⟩ hout)
  · have hc : s.macUpdateCheck = none := (macUpdateCheck_eq_none_iff s).mpr ⟨hst, (regionValid_iff s _ _).mpr hr⟩
    have hread : s.readT = none := read_eq_none hlo hhi hnone
    simp only [exec, execMacUpdate, hc, hread]
  · refine exec_aead_unreadable hi hc ?_
    obtain ⟨hlo, hhi⟩ | ⟨hlo, hhi⟩ := ha
    · exact .inr (read_eq_none hlo hhi hnone)
    · exact .inl (read_eq_none hlo hhi hnone)

/-! The word of STATUS. -/

/-- Bit i of the word of STATUS, by the field that holds it (10_state.md R27). -/
theorem getLsbD_statusWord (s : State) {i : Nat} (hi : i < 32) :
    s.statusWord.getLsbD i =
      if i < 1 then (BitVec.ofBool s.busy).getLsbD i
      else if i < 2 then (BitVec.ofBool s.done).getLsbD (i - 1)
      else if i < 3 then (BitVec.ofBool s.eq).getLsbD (i - 2)
      else if i < 4 then false
      else if i < 6 then s.mac.st.bits.getLsbD (i - 4)
      else if i < 7 then (BitVec.ofBool s.haz).getLsbD (i - 6)
      else if i < 8 then false
      else if i < 12 then s.err.bits.getLsbD (i - 8)
      else false := by
  have hword : s.statusWord.getLsbD i = BitVec.getLsbD (w := 20 + 4 + 1 + 1 + 2 + 1 + 1 + 1 + 1)
    (0#20 ++ s.err.bits ++ 0#1 ++ BitVec.ofBool s.haz ++ s.mac.st.bits ++ 0#1 ++ BitVec.ofBool s.eq ++
      BitVec.ofBool s.done ++ BitVec.ofBool s.busy) i := rfl
  rw [hword]
  iterate 8 rw [BitVec.getLsbD_append]
  interval_cases i <;> rfl

/-- A field of n bits from bit o on, bit by bit. -/
theorem extractLsb'_eq {n w : Nat} {x : BitVec w} {o : Nat} {y : BitVec n}
    (h : ∀ i, i < n → x.getLsbD (o + i) = y.getLsbD i) : x.extractLsb' o n = y := by
  apply BitVec.eq_of_getLsbD_eq
  intro i hi
  rw [BitVec.getLsbD_extractLsb', h i hi, decide_eq_true hi, Bool.true_and]

/-- Settles O48: each field is read off the concatenation that is the word of STATUS. -/
theorem statusFieldsAndIrq : Obligations.StatusFieldsAndIrq := by
  intro s
  have hbit (b : Bool) : (BitVec.ofBool b).getLsbD 0 = b := by cases b <;> rfl
  refine ⟨?_, ?_, ?_, extractLsb'_eq fun i hi => ?_, ?_, extractLsb'_eq fun i hi => ?_, ?_, ?_,
    extractLsb'_eq fun i hi => ?_, ⟨rfl, rfl, rfl⟩, ?_, fun _ => rfl⟩
  · exact (getLsbD_statusWord s (i := 0) (by decide)).trans (hbit _)
  · exact (getLsbD_statusWord s (i := 1) (by decide)).trans (hbit _)
  · exact (getLsbD_statusWord s (i := 2) (by decide)).trans (hbit _)
  · rw [getLsbD_statusWord s (by omega)]
    interval_cases i <;> rfl
  · exact (getLsbD_statusWord s (i := 6) (by decide)).trans (hbit _)
  · rw [getLsbD_statusWord s (by omega)]
    interval_cases i <;> rfl
  · exact getLsbD_statusWord s (i := 3) (by decide)
  · exact getLsbD_statusWord s (i := 7) (by decide)
  · rw [getLsbD_statusWord s (by omega)]
    interval_cases i <;> rfl
  · simp [State.irq]

/-! What the HOST can read. -/

/-- An outcome as a HOST sees it through a view of the state. -/
def viewed (view : State → State) : Host.Outcome State Fault Refusal → Host.Outcome State Fault Refusal
  | .next s => .next (view s)
  | .fault f => .fault f
  | .refused f => .refused f

/-- Two outcomes cannot be told apart iff they are seen as equal. -/
theorem sameView_iff (view : State → State) (o p : Host.Outcome State Fault Refusal) :
    SameView view o p ↔ viewed view o = viewed view p := by
  cases o <;> cases p <;> simp [SameView, viewed]

/-- A host read returns no secret: on the state with its secrets wiped it returns the same (10_state.md R37, R48). -/
theorem readLoc_hideSecrets (s : State) (l : Loc) : s.hideSecrets.readLoc l = s.readLoc l := by
  cases l <;> rfl

/-- A host write does the same to what the HOST can read whether or not the secrets are wiped. -/
theorem writeLoc_hideSecrets (s : State) (l : Loc) (v : Word) :
    (s.hideSecrets.writeLoc l v).hideSecrets = (s.writeLoc l v).hideSecrets := by
  cases l <;> rfl

/-- A read of an unlocked location that holds no value (10_state.md R50). -/
theorem hostRead_noValue {off : Word} {s : State} {l : Loc} (hl : locOf s.cfg off.toNat = l)
    (hu : s.isLocked l = false) (hv : s.readLoc l = none) : s.hostRead off = .fault .unwrittenHostRead := by
  simp [State.hostRead, hl, hu, hv]

/-- A host read, locked or not, returns no secret and leaves none where the HOST can read it. -/
theorem hostRead_hideSecrets (s : State) (off : Word) :
    viewed State.hideSecrets (s.hideSecrets.hostRead off) = viewed State.hideSecrets (s.hostRead off) := by
  generalize hl : locOf s.cfg off.toNat = l
  cases hk : s.isLocked l with
  | true => rw [hostRead_locked hl hk, hostRead_locked (s := s.hideSecrets) hl hk]; rfl
  | false =>
    have hread := readLoc_hideSecrets s l
    cases hv : s.readLoc l with
    | some v =>
      rw [hostRead_unlocked hl hk hv, hostRead_unlocked (s := s.hideSecrets) hl hk (hread.trans hv)]
      rfl
    | none => rw [hostRead_noValue hl hk hv, hostRead_noValue (s := s.hideSecrets) hl hk (hread.trans hv)]

/-- A host write, locked or not, moves no secret to where the HOST can read it. -/
theorem hostWrite_hideSecrets (s : State) (off v : Word) :
    viewed State.hideSecrets (s.hideSecrets.hostWrite off v) = viewed State.hideSecrets (s.hostWrite off v) := by
  generalize hl : locOf s.cfg off.toNat = l
  cases hk : s.isLocked l with
  | true => rw [hostWrite_locked hl hk, hostWrite_locked (s := s.hideSecrets) hl hk]; rfl
  | false =>
    rw [hostWrite_unlocked hl hk, hostWrite_unlocked (s := s.hideSecrets) hl hk]
    exact congrArg Host.Outcome.next (writeLoc_hideSecrets s l v)

theorem transact_hideSecrets (s : State) (x : Transaction) :
    viewed State.hideSecrets (s.hideSecrets.transact x) = viewed State.hideSecrets (s.transact x) := by
  have hcfg : s.hideSecrets.cfg = s.cfg := rfl
  simp only [State.transact, hcfg]
  split
  · rfl
  · split
    · rfl
    · cases x with
      | read off _ => exact hostRead_hideSecrets s off
      | write off _ v => exact hostWrite_hideSecrets s off v

/-- No input from outside can tell a state from the one with its secrets wiped. -/
theorem perform_hideSecrets (s : State) (x : HostInput) :
    viewed State.hideSecrets (s.hideSecrets.perform x) = viewed State.hideSecrets (s.perform x) := by
  cases x with
  | bus x => exact transact_hideSecrets s x
  | wait =>
    have hbusy : s.hideSecrets.busy = s.busy := rfl
    simp only [State.perform, State.poll, hbusy]
    cases s.busy <;> rfl
  | reset => rfl

/-- On the HOST's turn with no input waiting the CORE waits (70_reset_and_hazards.md R324; log 11). -/
theorem step_waiting {s : State} (hs : s.seqTurn = false) (hx : s.inbox = []) : step s = .next s := by
  simp [step, hs, State.hostTurn, hx]

/-- On the HOST's turn a step cannot be told from the step of the state with its secrets wiped. -/
theorem step_hideSecrets {s : State} (hs : s.seqTurn = false) :
    viewed State.hideSecrets (step s) = viewed State.hideSecrets (step s.hideSecrets) := by
  have hs' : s.hideSecrets.seqTurn = false := hs
  cases hx : s.inbox with
  | nil => rw [step_waiting hs hx, step_waiting (s := s.hideSecrets) hs' hx]; rfl
  | cons x rest =>
    rw [step_input hs hx, step_input (s := s.hideSecrets) hs' hx]
    exact (perform_hideSecrets (s.takeInput rest) x).symm

/-- Settles O57: each of the two steps looks like the step of its state with the secrets wiped, and that state is the same. -/
theorem hostNeverReadsSecrets : Obligations.HostNeverReadsSecrets := by
  intro s t hst hs
  have ht : t.seqTurn = false := (congrArg State.seqTurn hst).symm.trans hs
  rw [sameView_iff, step_hideSecrets hs, step_hideSecrets ht, hst]

end Sys2Proof.Machine

namespace Sys2Proof.Machine

/-! ## The limb datapath of the MAC computes the value rules (10_state.md R45; 41_mac.md R155 to R164) -/

/-! Limbs and blocks. -/

/-- `LimbsSmall`, limb by limb. -/
theorem limbsSmall_iff (h : Limbs) : LimbsSmall h ↔
    h[0].toNat < 2 ^ 26 ∧ h[1].toNat < 2 ^ 26 ∧ h[2].toNat < 2 ^ 26 ∧ h[3].toNat < 2 ^ 26 ∧ h[4].toNat < 2 ^ 26 := by
  constructor
  · intro hh
    exact ⟨hh 0, hh 1, hh 2, hh 3, hh 4⟩
  · rintro ⟨h0, h1, h2, h3, h4⟩ k
    match k with
    | 0 => exact h0
    | 1 => exact h1
    | 2 => exact h2
    | 3 => exact h3
    | 4 => exact h4

theorem limbsValue_mk (a b c d e : Word) : limbsValue #v[a, b, c, d, e] =
    a.toNat + b.toNat * 2 ^ 26 + c.toNat * 2 ^ 52 + d.toNat * 2 ^ 78 + e.toNat * 2 ^ 104 := rfl

theorem limbsBounded_mk (a b c d e : Word) : LimbsBounded #v[a, b, c, d, e] ↔
    a.toNat < 2 ^ 26 ∧ b.toNat < 2 ^ 26 + 2 ^ 6 ∧ c.toNat < 2 ^ 26 ∧ d.toNat < 2 ^ 26 ∧ e.toNat < 2 ^ 26 := Iff.rfl

theorem limbsSmall_mk (a b c d e : Word) : LimbsSmall #v[a, b, c, d, e] ↔
    a.toNat < 2 ^ 26 ∧ b.toNat < 2 ^ 26 ∧ c.toNat < 2 ^ 26 ∧ d.toNat < 2 ^ 26 ∧ e.toNat < 2 ^ 26 :=
  limbsSmall_iff _

/-- A limb within its clamping mask is below 2^26 (41_mac.md R153). -/
theorem masked_lt {r : Limbs} (hr : ∀ k : Fin 5, r[k] &&& clampMask[k] = r[k]) (k : Fin 5) : r[k].toNat < 2 ^ 26 := by
  have hmask : clampMask[k].toNat < 2 ^ 26 := by
    revert k
    decide
  have hle : (r[k] &&& clampMask[k]).toNat ≤ clampMask[k].toNat := by
    rw [BitVec.toNat_and]
    exact Nat.and_le_right
  rw [hr k] at hle
  omega

/-- 26 bits of a number, from bit k on. -/
theorem and_limbMask (n k : Nat) : (n >>> k) &&& 0x3FFFFFF = n / 2 ^ k % 2 ^ 26 := by
  rw [Nat.shiftRight_eq_div_pow]
  exact Nat.and_two_pow_sub_one_eq_mod _ 26

/-- The padded block of either kind has 16 bytes (41_mac.md R155, R156). -/
theorem paddedBlock_length {m : List Byte} {kind : BlockKind} (hfull : kind = .full → m.length = 16)
    (hpart : kind = .partialBlock → 1 ≤ m.length ∧ m.length ≤ 15) : (paddedBlock m kind).length = 16 := by
  cases kind with
  | full => exact hfull rfl
  | partialBlock =>
    obtain ⟨_, hle⟩ := hpart rfl
    simp only [paddedBlock, List.length_append, List.length_cons, zeros_length]
    omega

/-- The value of a block is that of its padded bytes, with bit 128 for a full one (41_mac.md R155, R156). -/
theorem blockValue_eq (m : List Byte) (kind : BlockKind) :
    blockValue m kind = leNat (paddedBlock m kind) + highBit kind * 2 ^ 104 := by
  cases kind <;> rfl

theorem highBit_or {n : Nat} (hn : n < 2 ^ 24) (kind : BlockKind) : n ||| highBit kind = n + highBit kind := by
  cases kind with
  | full =>
    rw [Nat.or_comm, Nat.add_comm]
    simpa [highBit] using (Nat.two_pow_add_eq_or_of_lt hn 1).symm
  | partialBlock => simp [highBit]

theorem highBit_le (kind : BlockKind) : highBit kind ≤ 2 ^ 24 := by cases kind <;> decide

/-- The limbs of a 128-bit number n, with b added to limb 4. -/
def natLimbs (n b : Nat) : Limbs :=
  #v[BitVec.ofNat 32 (n % 2 ^ 26), BitVec.ofNat 32 (n / 2 ^ 26 % 2 ^ 26), BitVec.ofNat 32 (n / 2 ^ 52 % 2 ^ 26),
     BitVec.ofNat 32 (n / 2 ^ 78 % 2 ^ 26), BitVec.ofNat 32 (n / 2 ^ 104 + b)]

theorem natLimbs_small {n b : Nat} (hn : n < 2 ^ 128) (hb : b ≤ 2 ^ 24) : LimbsSmall (natLimbs n b) := by
  simp only [natLimbs, limbsSmall_mk, BitVec.toNat_ofNat]
  omega

theorem limbsValue_natLimbs {n b : Nat} (hn : n < 2 ^ 128) (hb : b ≤ 2 ^ 24) :
    limbsValue (natLimbs n b) = n + b * 2 ^ 104 := by
  simp only [natLimbs, limbsValue_mk, BitVec.toNat_ofNat]
  omega

/-- The limbs of a number by shifts and masks are its limbs by division. -/
theorem natLimbs_eq {n : Nat} (hn : n < 2 ^ 128) (kind : BlockKind) :
    #v[BitVec.ofNat 32 (n &&& 0x3FFFFFF), BitVec.ofNat 32 ((n >>> 26) &&& 0x3FFFFFF),
      BitVec.ofNat 32 ((n >>> 52) &&& 0x3FFFFFF), BitVec.ofNat 32 ((n >>> 78) &&& 0x3FFFFFF),
      BitVec.ofNat 32 ((n >>> 104) ||| highBit kind)] = natLimbs n (highBit kind) := by
  have hlow : n &&& 0x3FFFFFF = n % 2 ^ 26 := Nat.and_two_pow_sub_one_eq_mod _ 26
  rw [hlow, and_limbMask, and_limbMask, and_limbMask, Nat.shiftRight_eq_div_pow n 104, highBit_or (by omega), natLimbs]

/-- The limbs of a block are those of its padded bytes (41_mac.md R155, R156). -/
theorem blockLimbs_eq {m : List Byte} {kind : BlockKind} (hlt : leNat (paddedBlock m kind) < 2 ^ 128) :
    blockLimbs m kind = natLimbs (leNat (paddedBlock m kind)) (highBit kind) :=
  natLimbs_eq hlt kind

/-- The limbs of a block are below 2^26 and have its value (41_mac.md R155, R156). -/
theorem blockLimbs_spec {m : List Byte} {kind : BlockKind} (hlen : (paddedBlock m kind).length = 16) :
    LimbsSmall (blockLimbs m kind) ∧ limbsValue (blockLimbs m kind) = blockValue m kind := by
  have hlt := leNat_lt (paddedBlock m kind)
  rw [hlen] at hlt
  have hn : leNat (paddedBlock m kind) < 2 ^ 128 := by omega
  rw [blockLimbs_eq hn, blockValue_eq]
  exact ⟨natLimbs_small hn (highBit_le kind), limbsValue_natLimbs hn (highBit_le kind)⟩

/-! Addition of a block, limb by limb (41_mac.md R161). -/

/-- Adding a block to bounded limbs carries out of no limb. -/
theorem addLimbs_spec {h m : Limbs} (hh : LimbsBounded h) (hm : LimbsSmall m) :
    (∀ k : Fin 5, (addLimbs h m)[k].toNat < 2 ^ 27 + 2 ^ 6) ∧
      limbsValue (addLimbs h m) = limbsValue h + limbsValue m := by
  obtain ⟨h0, h1, h2, h3, h4⟩ := hh
  obtain ⟨m0, m1, m2, m3, m4⟩ := (limbsSmall_iff m).mp hm
  constructor
  · intro k
    match k with
    | 0 | 1 | 2 | 3 | 4 => simp [addLimbs]; omega
  · simp only [limbsValue, addLimbs, Vector.getElem_ofFn, Fin.getElem_fin, BitVec.toNat_add]
    omega

/-! The multiplication (41_mac.md R162): five column sums, then one carry chain. -/

/-- The carry chain of `mulLimbs`, from its five column sums. -/
def carryColumns (d0 d1 d2 d3 d4 : BitVec 64) : Limbs :=
  let e1 := d1 + d0 >>> 26
  let e2 := d2 + e1 >>> 26
  let e3 := d3 + e2 >>> 26
  let e4 := d4 + e3 >>> 26
  let e0 := (d0 &&& limbMask64) + (e4 >>> 26) * 5#64
  #v[(e0 &&& limbMask64).setWidth 32, ((e1 &&& limbMask64) + e0 >>> 26).setWidth 32, (e2 &&& limbMask64).setWidth 32,
     (e3 &&& limbMask64).setWidth 32, (e4 &&& limbMask64).setWidth 32]

theorem mulLimbs_eq (h r : Limbs) :
    mulLimbs h r = carryColumns
      (wide h[0] * wide r[0] + wide h[1] * (5#64 * wide r[4]) + wide h[2] * (5#64 * wide r[3]) +
        wide h[3] * (5#64 * wide r[2]) + wide h[4] * (5#64 * wide r[1]))
      (wide h[0] * wide r[1] + wide h[1] * wide r[0] + wide h[2] * (5#64 * wide r[4]) +
        wide h[3] * (5#64 * wide r[3]) + wide h[4] * (5#64 * wide r[2]))
      (wide h[0] * wide r[2] + wide h[1] * wide r[1] + wide h[2] * wide r[0] + wide h[3] * (5#64 * wide r[4]) +
        wide h[4] * (5#64 * wide r[3]))
      (wide h[0] * wide r[3] + wide h[1] * wide r[2] + wide h[2] * wide r[1] + wide h[3] * wide r[0] +
        wide h[4] * (5#64 * wide r[4]))
      (wide h[0] * wide r[4] + wide h[1] * wide r[3] + wide h[2] * wide r[2] + wide h[3] * wide r[1] +
        wide h[4] * wide r[0]) := rfl

theorem toNat_shiftRight26 (d : BitVec 64) : (d >>> 26).toNat = d.toNat / 2 ^ 26 := by
  rw [BitVec.toNat_ushiftRight, Nat.shiftRight_eq_div_pow]

theorem toNat_and_limbMask64 (d : BitVec 64) : (d &&& limbMask64).toNat = d.toNat % 2 ^ 26 := by
  rw [BitVec.toNat_and]
  exact Nat.and_two_pow_sub_one_eq_mod _ 26

/-- One step of the chain: nothing is lost in 64 bits. -/
theorem toNat_add_carry {d e f : BitVec 64} (hf : f = d + e >>> 26) (hd : d.toNat < 2 ^ 60) :
    f.toNat = d.toNat + e.toNat / 2 ^ 26 := by
  rw [hf, BitVec.toNat_add, toNat_shiftRight26]
  omega

/-- The step of the chain back to limb 0: the carry out of limb 4 is worth 5 there. -/
theorem toNat_add_fold {d e f : BitVec 64} (hf : f = (d &&& limbMask64) + (e >>> 26) * 5#64) (he : e.toNat < 2 ^ 60) :
    f.toNat = d.toNat % 2 ^ 26 + e.toNat / 2 ^ 26 * 5 := by
  rw [hf, BitVec.toNat_add, BitVec.toNat_mul, toNat_shiftRight26, toNat_and_limbMask64, BitVec.toNat_ofNat]
  omega

/-- A limb cut off a column. -/
theorem toNat_maskedLimb {d : BitVec 64} {l : Nat} (hl : d.toNat % 2 ^ 26 = l) :
    ((d &&& limbMask64).setWidth 32).toNat = l := by
  rw [BitVec.toNat_setWidth, toNat_and_limbMask64]
  omega

/-- A number split at bit 26. -/
theorem exists_split26 (n : Nat) : ∃ q l, n / 2 ^ 26 = q ∧ n % 2 ^ 26 = l ∧ n = 2 ^ 26 * q + l ∧ l < 2 ^ 26 :=
  ⟨_, _, rfl, rfl, (Nat.div_add_mod n _).symm, Nat.mod_lt n (by decide)⟩

/-- The carry chain keeps the limbs within their bounds; what it drops is a multiple of p, since 2^130 is 5 mod p. -/
theorem carryColumns_spec {d0 d1 d2 d3 d4 : BitVec 64} (h0 : d0.toNat < 2 ^ 59) (h1 : d1.toNat < 2 ^ 59)
    (h2 : d2.toNat < 2 ^ 59) (h3 : d3.toNat < 2 ^ 59) (h4 : d4.toNat < 5 * (2 ^ 27 + 2 ^ 6) * 2 ^ 26) :
    LimbsBounded (carryColumns d0 d1 d2 d3 d4) ∧
      ∃ q, limbsValue (carryColumns d0 d1 d2 d3 d4) + (2 ^ 130 - 5) * q =
        d0.toNat + d1.toNat * 2 ^ 26 + d2.toNat * 2 ^ 52 + d3.toNat * 2 ^ 78 + d4.toNat * 2 ^ 104 := by
  obtain ⟨e1, he1⟩ : ∃ e, e = d1 + d0 >>> 26 := ⟨_, rfl⟩
  obtain ⟨e2, he2⟩ : ∃ e, e = d2 + e1 >>> 26 := ⟨_, rfl⟩
  obtain ⟨e3, he3⟩ : ∃ e, e = d3 + e2 >>> 26 := ⟨_, rfl⟩
  obtain ⟨e4, he4⟩ : ∃ e, e = d4 + e3 >>> 26 := ⟨_, rfl⟩
  obtain ⟨e0, he0⟩ : ∃ e, e = (d0 &&& limbMask64) + (e4 >>> 26) * 5#64 := ⟨_, rfl⟩
  have hlimbs : carryColumns d0 d1 d2 d3 d4 =
      #v[(e0 &&& limbMask64).setWidth 32, ((e1 &&& limbMask64) + e0 >>> 26).setWidth 32,
        (e2 &&& limbMask64).setWidth 32, (e3 &&& limbMask64).setWidth 32, (e4 &&& limbMask64).setWidth 32] := by
    rw [he0, he4, he3, he2, he1]
    rfl
  rw [hlimbs]
  replace he1 := toNat_add_carry he1 (by omega)
  replace he2 := toNat_add_carry he2 (by omega)
  replace he3 := toNat_add_carry he3 (by omega)
  replace he4 := toNat_add_carry he4 (by omega)
  replace he0 := toNat_add_fold he0 (by omega)
  clear hlimbs
  obtain ⟨c0, l0, hc0, hl0, hd0, hb0⟩ := exists_split26 d0.toNat
  obtain ⟨c1, l1, hc1, hl1, hd1, hb1⟩ := exists_split26 e1.toNat
  obtain ⟨c2, l2, hc2, hl2, hd2, hb2⟩ := exists_split26 e2.toNat
  obtain ⟨c3, l3, hc3, hl3, hd3, hb3⟩ := exists_split26 e3.toNat
  obtain ⟨c4, l4, hc4, hl4, hd4, hb4⟩ := exists_split26 e4.toNat
  obtain ⟨c5, l5, hc5, hl5, hd5, hb5⟩ := exists_split26 e0.toNat
  rw [hc0] at he1
  rw [hc1] at he2
  rw [hc2] at he3
  rw [hc3] at he4
  rw [hl0, hc4] at he0
  have hc4le : c4 ≤ 5 * (2 ^ 27 + 2 ^ 6) + 2 ^ 8 := by omega
  have hc5le : c5 < 2 ^ 6 := by omega
  have hadd : ((e1 &&& limbMask64) + e0 >>> 26).toNat = l1 + c5 := by
    rw [BitVec.toNat_add, toNat_shiftRight26, toNat_and_limbMask64, hl1, hc5]
    omega
  have hw0 := toNat_maskedLimb hl5
  have hw1 : (((e1 &&& limbMask64) + e0 >>> 26).setWidth 32).toNat = l1 + c5 := by
    rw [BitVec.toNat_setWidth, hadd]
    omega
  have hw2 := toNat_maskedLimb hl2
  have hw3 := toNat_maskedLimb hl3
  have hw4 := toNat_maskedLimb hl4
  constructor
  · rw [limbsBounded_mk, hw0, hw1, hw2, hw3, hw4]
    omega
  · refine ⟨c4, ?_⟩
    rw [limbsValue_mk, hw0, hw1, hw2, hw3, hw4]
    omega

/-! The column sums. -/

theorem toNat_wide (w : Word) : (wide w).toNat = w.toNat := by
  rw [wide, BitVec.toNat_setWidth]
  omega

/-- A product of two limbs fits 64 bits. -/
theorem toNat_wide_mul (a b : Word) : (wide a * wide b).toNat = a.toNat * b.toNat := by
  have hlt : a.toNat * b.toNat < 2 ^ 32 * 2 ^ 32 := Nat.mul_lt_mul'' a.isLt b.isLt
  rw [BitVec.toNat_mul, toNat_wide, toNat_wide, Nat.mod_eq_of_lt (by omega)]

/-- A product with five times a clamped limb fits 64 bits. -/
theorem toNat_wide_mul5 {a b : Word} (hb : b.toNat < 2 ^ 26) :
    (wide a * (5#64 * wide b)).toNat = 5 * (a.toNat * b.toNat) := by
  have hlt : a.toNat * b.toNat < 2 ^ 32 * 2 ^ 26 := Nat.mul_lt_mul'' a.isLt hb
  have h5 : (5#64 * wide b).toNat = 5 * b.toNat := by
    rw [BitVec.toNat_mul, toNat_wide, BitVec.toNat_ofNat]
    omega
  rw [BitVec.toNat_mul, toNat_wide, h5, Nat.mul_left_comm, Nat.mod_eq_of_lt (by omega)]

/-- A column sum of five products fits 64 bits. -/
theorem toNat_add5 {a b c d e : BitVec 64} {x y z u v B : Nat} (ha : a.toNat = x ∧ x < B) (hb : b.toNat = y ∧ y < B)
    (hc : c.toNat = z ∧ z < B) (hd : d.toNat = u ∧ u < B) (he : e.toNat = v ∧ v < B) (hB : B ≤ 2 ^ 56) :
    (a + b + c + d + e).toNat = x + y + z + u + v ∧ (a + b + c + d + e).toNat < 5 * B := by
  simp only [BitVec.toNat_add]
  omega

/-- The columns of a product past limb 4, which come back five times. -/
def upperColumns (h r : Limbs) : Nat :=
  (h[1].toNat * r[4].toNat + h[2].toNat * r[3].toNat + h[3].toNat * r[2].toNat + h[4].toNat * r[1].toNat) +
    (h[2].toNat * r[4].toNat + h[3].toNat * r[3].toNat + h[4].toNat * r[2].toNat) * 2 ^ 26 +
    (h[3].toNat * r[4].toNat + h[4].toNat * r[3].toNat) * 2 ^ 52 + h[4].toNat * r[4].toNat * 2 ^ 78

/-- The product of two limb values, by columns: the upper ones are folded back five times, for 2^130 is 5 mod p. -/
theorem limbsValue_mul (h r : Limbs) : limbsValue h * limbsValue r =
    (h[0].toNat * r[0].toNat + 5 * (h[1].toNat * r[4].toNat) + 5 * (h[2].toNat * r[3].toNat) +
      5 * (h[3].toNat * r[2].toNat) + 5 * (h[4].toNat * r[1].toNat)) +
    (h[0].toNat * r[1].toNat + h[1].toNat * r[0].toNat + 5 * (h[2].toNat * r[4].toNat) +
      5 * (h[3].toNat * r[3].toNat) + 5 * (h[4].toNat * r[2].toNat)) * 2 ^ 26 +
    (h[0].toNat * r[2].toNat + h[1].toNat * r[1].toNat + h[2].toNat * r[0].toNat +
      5 * (h[3].toNat * r[4].toNat) + 5 * (h[4].toNat * r[3].toNat)) * 2 ^ 52 +
    (h[0].toNat * r[3].toNat + h[1].toNat * r[2].toNat + h[2].toNat * r[1].toNat + h[3].toNat * r[0].toNat +
      5 * (h[4].toNat * r[4].toNat)) * 2 ^ 78 +
    (h[0].toNat * r[4].toNat + h[1].toNat * r[3].toNat + h[2].toNat * r[2].toNat + h[3].toNat * r[1].toNat +
      h[4].toNat * r[0].toNat) * 2 ^ 104 + (2 ^ 130 - 5) * upperColumns h r := by
  have hp : 2 ^ 130 - 5 = 1361129467683753853853498429727072845819 := by norm_num
  rw [hp, limbsValue, limbsValue, upperColumns]
  ring

/-- The multiplication of R162 on limbs that are below 2^27 + 2^6, by clamped limbs: the result is within the bounds of R161,
and its value is the product mod p. -/
theorem mulLimbs_spec {h r : Limbs} (hh : ∀ k : Fin 5, h[k].toNat < 2 ^ 27 + 2 ^ 6)
    (hr : ∀ k : Fin 5, r[k].toNat < 2 ^ 26) :
    LimbsBounded (mulLimbs h r) ∧
      limbsValue (mulLimbs h r) % (2 ^ 130 - 5) = (limbsValue h * limbsValue r) % (2 ^ 130 - 5) := by
  have hone (i j : Fin 5) : (wide h[i] * wide r[j]).toNat = h[i].toNat * r[j].toNat ∧
      h[i].toNat * r[j].toNat < (2 ^ 27 + 2 ^ 6) * 2 ^ 26 :=
    ⟨toNat_wide_mul _ _, Nat.mul_lt_mul'' (hh i) (hr j)⟩
  have hbig (i j : Fin 5) : (wide h[i] * wide r[j]).toNat = h[i].toNat * r[j].toNat ∧
      h[i].toNat * r[j].toNat < 2 ^ 56 := ⟨(hone i j).1, Nat.lt_trans (hone i j).2 (by decide)⟩
  have hfive (i j : Fin 5) : (wide h[i] * (5#64 * wide r[j])).toNat = 5 * (h[i].toNat * r[j].toNat) ∧
      5 * (h[i].toNat * r[j].toNat) < 2 ^ 56 := by
    have hlt := (hone i j).2
    exact ⟨toNat_wide_mul5 (hr j), by omega⟩
  obtain ⟨e0, b0⟩ := toNat_add5 (hbig 0 0) (hfive 1 4) (hfive 2 3) (hfive 3 2) (hfive 4 1) le_rfl
  obtain ⟨e1, b1⟩ := toNat_add5 (hbig 0 1) (hbig 1 0) (hfive 2 4) (hfive 3 3) (hfive 4 2) le_rfl
  obtain ⟨e2, b2⟩ := toNat_add5 (hbig 0 2) (hbig 1 1) (hbig 2 0) (hfive 3 4) (hfive 4 3) le_rfl
  obtain ⟨e3, b3⟩ := toNat_add5 (hbig 0 3) (hbig 1 2) (hbig 2 1) (hbig 3 0) (hfive 4 4) le_rfl
  obtain ⟨e4, b4⟩ := toNat_add5 (hone 0 4) (hone 1 3) (hone 2 2) (hone 3 1) (hone 4 0) (by decide)
  obtain ⟨hbound, q, hq⟩ := carryColumns_spec (Nat.lt_trans b0 (by decide)) (Nat.lt_trans b1 (by decide))
    (Nat.lt_trans b2 (by decide)) (Nat.lt_trans b3 (by decide)) (Nat.lt_of_lt_of_le b4 (by decide))
  rw [e0, e1, e2, e3, e4] at hq
  refine ⟨hbound, ?_⟩
  have hprod := limbsValue_mul h r
  simp only [Fin.getElem_fin, Fin.isValue, Fin.coe_ofNat_eq_mod, Nat.reduceMod] at hq
  rw [← mulLimbs_eq] at hq
  rw [hprod, ← hq]
  omega

/-- One block step on limbs keeps the bounds of R161 and computes the block step of R158 on their values. -/
theorem limbBlock_spec {r h : Limbs} {m : List Byte} {kind : BlockKind} (hh : LimbsBounded h)
    (hr : ∀ k : Fin 5, r[k] &&& clampMask[k] = r[k]) (hfull : kind = .full → m.length = 16)
    (hpart : kind = .partialBlock → 1 ≤ m.length ∧ m.length ≤ 15) :
    LimbsBounded (limbBlock r h m kind) ∧
      limbsValue (limbBlock r h m kind) % (2 ^ 130 - 5) =
        ((limbsValue h + blockValue m kind) * limbsValue r) % (2 ^ 130 - 5) := by
  obtain ⟨hsmall, hval⟩ := blockLimbs_spec (paddedBlock_length hfull hpart)
  obtain ⟨hlt, hsum⟩ := addLimbs_spec hh hsmall
  rw [← hval, ← hsum]
  exact mulLimbs_spec hlt (masked_lt hr)

/-! The final reduction (41_mac.md R163). -/

theorem toNat_shiftRight26_word (w : Word) : (w >>> 26).toNat = w.toNat / 2 ^ 26 := by
  rw [BitVec.toNat_ushiftRight, Nat.shiftRight_eq_div_pow]

theorem toNat_and_limbMask (w : Word) : (w &&& limbMask).toNat = w.toNat % 2 ^ 26 := by
  rw [BitVec.toNat_and]
  exact Nat.and_two_pow_sub_one_eq_mod _ 26

/-- One step of a carry through 32-bit limbs: nothing is lost. -/
theorem toNat_add_carry_word {d e f : Word} (hf : f = d + e >>> 26) (hd : d.toNat < 2 ^ 31) :
    f.toNat = d.toNat + e.toNat / 2 ^ 26 := by
  rw [hf, BitVec.toNat_add, toNat_shiftRight26_word]
  omega

/-- The final carry makes every limb small; what it drops is a multiple of p. -/
theorem carryLimbs_spec {h : Limbs} (hh : LimbsBounded h) :
    LimbsSmall (carryLimbs h) ∧ ∃ q, limbsValue (carryLimbs h) + (2 ^ 130 - 5) * q = limbsValue h := by
  obtain ⟨b0, b1, b2, b3, b4⟩ := hh
  obtain ⟨e2, he2⟩ : ∃ e, e = h[2] + h[1] >>> 26 := ⟨_, rfl⟩
  obtain ⟨e3, he3⟩ : ∃ e, e = h[3] + e2 >>> 26 := ⟨_, rfl⟩
  obtain ⟨e4, he4⟩ : ∃ e, e = h[4] + e3 >>> 26 := ⟨_, rfl⟩
  obtain ⟨e0, he0⟩ : ∃ e, e = h[0] + e4 >>> 26 * 5#32 := ⟨_, rfl⟩
  obtain ⟨e1, he1⟩ : ∃ e, e = (h[1] &&& limbMask) + e0 >>> 26 := ⟨_, rfl⟩
  have hlimbs : carryLimbs h = #v[e0 &&& limbMask, e1, e2 &&& limbMask, e3 &&& limbMask, e4 &&& limbMask] := by
    rw [he1, he0, he4, he3, he2]
    rfl
  obtain ⟨c1, l1, hc1, hl1, hd1, hb1⟩ := exists_split26 h[1].toNat
  obtain ⟨c2, l2, hc2, hl2, hd2, hb2⟩ := exists_split26 e2.toNat
  obtain ⟨c3, l3, hc3, hl3, hd3, hb3⟩ := exists_split26 e3.toNat
  obtain ⟨c4, l4, hc4, hl4, hd4, hb4⟩ := exists_split26 e4.toNat
  obtain ⟨c0, l0, hc0, hl0, hd0, hb0⟩ := exists_split26 e0.toNat
  replace he2 := toNat_add_carry_word he2 (by omega)
  rw [hc1] at he2
  replace he3 := toNat_add_carry_word he3 (by omega)
  rw [hc2] at he3
  replace he4 := toNat_add_carry_word he4 (by omega)
  rw [hc3] at he4
  replace he0 : e0.toNat = h[0].toNat + c4 * 5 := by
    rw [he0, BitVec.toNat_add, BitVec.toNat_mul, toNat_shiftRight26_word, hc4, BitVec.toNat_ofNat]
    omega
  replace he1 : e1.toNat = l1 + c0 := by
    rw [he1, BitVec.toNat_add, toNat_shiftRight26_word, toNat_and_limbMask, hl1, hc0]
    omega
  have hwrap : l1 + c0 < 2 ^ 26 := by
    obtain hnone | hone : c1 = 0 ∨ c1 = 1 := by omega
    · have hc0 : c0 = 0 := by omega
      omega
    · omega
  rw [hlimbs]
  constructor
  · rw [limbsSmall_mk, he1, toNat_and_limbMask, toNat_and_limbMask, toNat_and_limbMask, toNat_and_limbMask, hl0, hl2, hl3,
      hl4]
    omega
  · refine ⟨c4, ?_⟩
    rw [limbsValue_mk, he1, toNat_and_limbMask, toNat_and_limbMask, toNat_and_limbMask, toNat_and_limbMask, hl0, hl2, hl3,
      hl4, limbsValue]
    omega

/-- The limbs of h + 5 − 2^130, that is of h − p (41_mac.md R163); limb 4 wraps below zero when h is below p. -/
def plusFive (h : Limbs) : Limbs :=
  let e0 := h[0] + 5#32
  let e1 := h[1] + e0 >>> 26
  let e2 := h[2] + e1 >>> 26
  let e3 := h[3] + e2 >>> 26
  let e4 := h[4] + e3 >>> 26
  #v[e0 &&& limbMask, e1 &&& limbMask, e2 &&& limbMask, e3 &&& limbMask, e4 - 0x4000000#32]

/-- The select of R163 by its mask. -/
def maskSelect (mask : Word) (h g : Limbs) : Limbs :=
  #v[(h[0] &&& ~~~mask) ||| (g[0] &&& mask), (h[1] &&& ~~~mask) ||| (g[1] &&& mask),
    (h[2] &&& ~~~mask) ||| (g[2] &&& mask), (h[3] &&& ~~~mask) ||| (g[3] &&& mask),
    (h[4] &&& ~~~mask) ||| (g[4] &&& mask)]

theorem selectLimbs_eq (h : Limbs) :
    selectLimbs h = maskSelect (((plusFive h)[4] >>> 31) - 1#32) h (plusFive h) := rfl

/-- The mask of all ones, as a literal. -/
theorem and_ones (w : Word) : w &&& 4294967295#32 = w := BitVec.and_allOnes

theorem maskSelect_zero (h g : Limbs) : maskSelect 0#32 h g = h := by
  apply Vector.ext
  intro i hi
  interval_cases i <;> simp [maskSelect, and_ones]

theorem maskSelect_ones (h g : Limbs) : maskSelect (BitVec.allOnes 32) h g = g := by
  apply Vector.ext
  intro i hi
  interval_cases i <;> simp [maskSelect, and_ones]

/-- Limb 4 of h + 5 − 2^130 has its sign bit set exactly when h is below p; otherwise the limbs are those of h − p. -/
theorem plusFive_spec {h : Limbs} (hh : LimbsSmall h) :
    (limbsValue h < 2 ^ 130 - 5 → (plusFive h)[4] >>> 31 = 1#32) ∧
    (2 ^ 130 - 5 ≤ limbsValue h → (plusFive h)[4] >>> 31 = 0#32 ∧ LimbsSmall (plusFive h) ∧
      limbsValue (plusFive h) = limbsValue h - (2 ^ 130 - 5)) := by
  obtain ⟨b0, b1, b2, b3, b4⟩ := (limbsSmall_iff h).mp hh
  obtain ⟨e0, he0⟩ : ∃ e, e = h[0] + 5#32 := ⟨_, rfl⟩
  obtain ⟨e1, he1⟩ : ∃ e, e = h[1] + e0 >>> 26 := ⟨_, rfl⟩
  obtain ⟨e2, he2⟩ : ∃ e, e = h[2] + e1 >>> 26 := ⟨_, rfl⟩
  obtain ⟨e3, he3⟩ : ∃ e, e = h[3] + e2 >>> 26 := ⟨_, rfl⟩
  obtain ⟨e4, he4⟩ : ∃ e, e = h[4] + e3 >>> 26 := ⟨_, rfl⟩
  have hlimbs : plusFive h =
      #v[e0 &&& limbMask, e1 &&& limbMask, e2 &&& limbMask, e3 &&& limbMask, e4 - 0x4000000#32] := by
    rw [he4, he3, he2, he1, he0]
    rfl
  have h4 : (plusFive h)[4] = e4 - 0x4000000#32 := by rw [hlimbs]; rfl
  obtain ⟨c0, l0, hc0, hl0, hd0, hb0⟩ := exists_split26 e0.toNat
  obtain ⟨c1, l1, hc1, hl1, hd1, hb1⟩ := exists_split26 e1.toNat
  obtain ⟨c2, l2, hc2, hl2, hd2, hb2⟩ := exists_split26 e2.toNat
  obtain ⟨c3, l3, hc3, hl3, hd3, hb3⟩ := exists_split26 e3.toNat
  replace he0 : e0.toNat = h[0].toNat + 5 := by
    rw [he0, BitVec.toNat_add, BitVec.toNat_ofNat]
    omega
  replace he1 := toNat_add_carry_word he1 (by omega)
  rw [hc0] at he1
  replace he2 := toNat_add_carry_word he2 (by omega)
  rw [hc1] at he2
  replace he3 := toNat_add_carry_word he3 (by omega)
  rw [hc2] at he3
  replace he4 := toNat_add_carry_word he4 (by omega)
  rw [hc3] at he4
  have hsign : ((plusFive h)[4] >>> 31).toNat = (2 ^ 32 - 2 ^ 26 + e4.toNat) % 2 ^ 32 / 2 ^ 31 := by
    rw [h4, BitVec.toNat_ushiftRight, Nat.shiftRight_eq_div_pow, BitVec.toNat_sub]
    rfl
  have hvalue : limbsValue h + 5 = l0 + l1 * 2 ^ 26 + l2 * 2 ^ 52 + l3 * 2 ^ 78 + e4.toNat * 2 ^ 104 := by
    rw [limbsValue]
    omega
  constructor
  · intro hlt
    apply BitVec.eq_of_toNat_eq
    rw [hsign, BitVec.toNat_ofNat]
    omega
  · intro hge
    have htop : e4.toNat = 2 ^ 26 := by omega
    have hg4 : (e4 - 0x4000000#32).toNat = 0 := by
      rw [BitVec.toNat_sub, htop]
      rfl
    refine ⟨?_, ?_, ?_⟩
    · apply BitVec.eq_of_toNat_eq
      rw [hsign, htop]
      rfl
    · rw [hlimbs, limbsSmall_mk, hg4, toNat_and_limbMask, toNat_and_limbMask, toNat_and_limbMask, toNat_and_limbMask, hl0,
        hl1, hl2, hl3]
      omega
    · rw [hlimbs, limbsValue_mk, hg4, toNat_and_limbMask, toNat_and_limbMask, toNat_and_limbMask, toNat_and_limbMask, hl0,
        hl1, hl2, hl3]
      omega

theorem limbsValue_lt {h : Limbs} (hh : LimbsSmall h) : limbsValue h < 2 ^ 130 := by
  obtain ⟨b0, b1, b2, b3, b4⟩ := (limbsSmall_iff h).mp hh
  rw [limbsValue]
  omega

/-- The masked select reduces small limbs mod p: their value is below 2^130, so below 2p. -/
theorem selectLimbs_spec {h : Limbs} (hh : LimbsSmall h) :
    LimbsSmall (selectLimbs h) ∧ limbsValue (selectLimbs h) = limbsValue h % (2 ^ 130 - 5) := by
  obtain ⟨hbelow, habove⟩ := plusFive_spec hh
  have hlt := limbsValue_lt hh
  rcases Nat.lt_or_ge (limbsValue h) (2 ^ 130 - 5) with hp | hp
  · rw [selectLimbs_eq, hbelow hp, BitVec.sub_self, maskSelect_zero, Nat.mod_eq_of_lt hp]
    exact ⟨hh, rfl⟩
  · obtain ⟨hsign, hsmall, hval⟩ := habove hp
    rw [selectLimbs_eq, hsign, show 0#32 - 1#32 = BitVec.allOnes 32 from rfl, maskSelect_ones, hval]
    exact ⟨hsmall, by omega⟩

/-- The final reduction gives the canonical value in small limbs (41_mac.md R163). -/
theorem reduceLimbs_spec {h : Limbs} (hh : LimbsBounded h) :
    LimbsSmall (reduceLimbs h) ∧ limbsValue (reduceLimbs h) = limbsValue h % (2 ^ 130 - 5) := by
  obtain ⟨hsmall, q, hq⟩ := carryLimbs_spec hh
  obtain ⟨hred, hval⟩ := selectLimbs_spec hsmall
  refine ⟨hred, hval.trans ?_⟩
  rw [← hq, Nat.add_mul_mod_self_left]

/-! The pad addition (41_mac.md R164). -/

/-- A word or-ed in above the bits of v is added there; what passes bit 128 is cut off. -/
theorem toNat_or_shiftLeft {v : BitVec 128} {w : Word} {k j : Nat} (hkj : j + k = 128) (hv : v.toNat < 2 ^ k) :
    (v ||| (w.setWidth 128 <<< k)).toNat = v.toNat + w.toNat % 2 ^ j * 2 ^ k := by
  have hw : (w.setWidth 128 <<< k).toNat = w.toNat % 2 ^ j * 2 ^ k := by
    rw [BitVec.toNat_shiftLeft, BitVec.toNat_setWidth, Nat.mod_eq_of_lt (show w.toNat < 2 ^ 128 by omega),
      Nat.shiftLeft_eq, ← hkj, Nat.pow_add, Nat.mul_mod_mul_right]
  rw [BitVec.toNat_or, hw, Nat.or_comm, Nat.mul_comm, ← Nat.two_pow_add_eq_or_of_lt hv, Nat.add_comm]

/-- The low 128 bits of small limbs (41_mac.md R164). -/
theorem toNat_limbsLow128 {h : Limbs} (hh : LimbsSmall h) : (limbsLow128 h).toNat = limbsValue h % 2 ^ 128 := by
  obtain ⟨b0, b1, b2, b3, -⟩ := (limbsSmall_iff h).mp hh
  have v0 : (h[0].setWidth 128).toNat = h[0].toNat := by
    rw [BitVec.toNat_setWidth]
    omega
  have v1 := toNat_or_shiftLeft (v := h[0].setWidth 128) (w := h[1]) (k := 26) (j := 102) rfl (by omega)
  have v2 := toNat_or_shiftLeft (w := h[2]) (k := 52) (j := 76) rfl (show _ < _ by rw [v1]; omega)
  have v3 := toNat_or_shiftLeft (w := h[3]) (k := 78) (j := 50) rfl (show _ < _ by rw [v2]; omega)
  have v4 := toNat_or_shiftLeft (w := h[4]) (k := 104) (j := 24) rfl (show _ < _ by rw [v3]; omega)
  rw [limbsLow128, v4, v3, v2, v1, v0, limbsValue]
  omega

theorem leNat_wordBytes (w : Word) : leNat (wordBytes w) = w.toNat := by
  have hlt := w.isLt
  rw [wordBytes, leNat_leBytes]
  omega

/-- Four words as 16 bytes (20_memory.md R62). -/
theorem wordBytes_append4 (a b c d : Word) :
    wordBytes a ++ wordBytes b ++ wordBytes c ++ wordBytes d =
      leBytes 16 (a.toNat + b.toNat * 2 ^ 32 + c.toNat * 2 ^ 64 + d.toNat * 2 ^ 96) := by
  have hnat : leNat (wordBytes a ++ wordBytes b ++ wordBytes c ++ wordBytes d) =
      a.toNat + b.toNat * 2 ^ 32 + c.toNat * 2 ^ 64 + d.toNat * 2 ^ 96 := by
    simp only [leNat_append, leNat_wordBytes, List.length_append, wordBytes_length]
    omega
  rw [← hnat]
  exact (leBytes_leNat (wordBytes a ++ wordBytes b ++ wordBytes c ++ wordBytes d)).symm

theorem toNat_padStep (w s : Word) (carry : Nat) :
    (padStep w s carry).1.toNat = (w.toNat + s.toNat + carry) % 2 ^ 32 := BitVec.toNat_ofNat ..

theorem padStep_carry (w s : Word) (carry : Nat) : (padStep w s carry).2 = (w.toNat + s.toNat + carry) / 2 ^ 32 :=
  Nat.shiftRight_eq_div_pow _ _

/-- Four word additions with their carries are one addition mod 2^128. -/
theorem padSteps_eq (v : BitVec 128) (s0 s1 s2 s3 : Word) {a b c d : Word × Nat}
    (ha : a = padStep (v.extractLsb' 0 32) s0 0) (hb : b = padStep (v.extractLsb' 32 32) s1 a.2)
    (hc : c = padStep (v.extractLsb' 64 32) s2 b.2) (hd : d = padStep (v.extractLsb' 96 32) s3 c.2) :
    a.1.toNat + b.1.toNat * 2 ^ 32 + c.1.toNat * 2 ^ 64 + d.1.toNat * 2 ^ 96 =
      (v.toNat + (s0.toNat + s1.toNat * 2 ^ 32 + s2.toNat * 2 ^ 64 + s3.toNat * 2 ^ 96)) % 2 ^ 128 := by
  have hword (k : Nat) : (v.extractLsb' k 32).toNat = v.toNat / 2 ^ k % 2 ^ 32 := by
    rw [BitVec.extractLsb'_toNat, Nat.shiftRight_eq_div_pow]
  have hv : v.toNat = (v.extractLsb' 0 32).toNat + (v.extractLsb' 32 32).toNat * 2 ^ 32 +
      (v.extractLsb' 64 32).toNat * 2 ^ 64 + (v.extractLsb' 96 32).toNat * 2 ^ 96 := by
    rw [hword, hword, hword, hword]
    omega
  have ha1 : a.1.toNat + a.2 * 2 ^ 32 = (v.extractLsb' 0 32).toNat + s0.toNat := by
    rw [ha, toNat_padStep, padStep_carry]
    omega
  have hb1 : b.1.toNat + b.2 * 2 ^ 32 = (v.extractLsb' 32 32).toNat + s1.toNat + a.2 := by
    rw [hb, toNat_padStep, padStep_carry]
    omega
  have hc1 : c.1.toNat + c.2 * 2 ^ 32 = (v.extractLsb' 64 32).toNat + s2.toNat + b.2 := by
    rw [hc, toNat_padStep, padStep_carry]
    omega
  have hd1 : d.1.toNat + d.2 * 2 ^ 32 = (v.extractLsb' 96 32).toNat + s3.toNat + c.2 := by
    rw [hd, toNat_padStep, padStep_carry]
    omega
  have hsum : v.toNat + (s0.toNat + s1.toNat * 2 ^ 32 + s2.toNat * 2 ^ 64 + s3.toNat * 2 ^ 96) =
      a.1.toNat + b.1.toNat * 2 ^ 32 + c.1.toNat * 2 ^ 64 + d.1.toNat * 2 ^ 96 + 2 ^ 128 * d.2 := by
    clear ha hb hc hd hword
    omega
  rw [hsum, Nat.add_mul_mod_self_left, Nat.mod_eq_of_lt]
  clear ha hb hc hd hword hv hsum
  omega

/-- The word-wise pad addition is the addition mod 2^128 of R160. -/
theorem padLimbs_eq {h : Limbs} (hh : LimbsSmall h) (m : MacState) :
    padLimbs h m.sp = leBytes 16 ((limbsValue h + m.sv) % 2 ^ 128) := by
  have hsum := padSteps_eq (limbsLow128 h) m.sp[0] m.sp[1] m.sp[2] m.sp[3] rfl rfl rfl rfl
  rw [toNat_limbsLow128 hh, Nat.mod_add_mod] at hsum
  unfold padLimbs
  dsimp only
  rw [wordBytes_append4, hsum, MacState.sv]

/-! A whole message. -/

/-- A block step of the limb datapath is the block step of the value rules (41_mac.md R158, R161, R162). -/
theorem limbBlock_macBlock {r h : Limbs} {acc : Fin p} {m : List Byte} {kind : BlockKind} (hh : LimbsBounded h)
    (hacc : limbsValue h % p = acc.val) (hr : ∀ k : Fin 5, r[k] &&& clampMask[k] = r[k])
    (hfull : kind = .full → m.length = 16) (hpart : kind = .partialBlock → 1 ≤ m.length ∧ m.length ≤ 15) :
    LimbsBounded (limbBlock r h m kind) ∧
      limbsValue (limbBlock r h m kind) % p = (macBlock (limbsValue r) acc m kind).val := by
  obtain ⟨hbound, hval⟩ := limbBlock_spec hh hr hfull hpart
  refine ⟨hbound, hval.trans ?_⟩
  show _ = (acc.val + blockValue m kind) * limbsValue r % p
  rw [← hacc]
  exact (Nat.ModEq.add_right _ (Nat.mod_modEq _ _).symm).mul_right _

/-- The full blocks of a message, in both layers. -/
theorem limbBlocks_absorbBlocks {r : Limbs} (hr : ∀ k : Fin 5, r[k] &&& clampMask[k] = r[k]) (n : Nat) {h : Limbs}
    {acc : Fin p} {S : List Byte} (hh : LimbsBounded h) (hacc : limbsValue h % p = acc.val) (hS : 16 * n ≤ S.length) :
    LimbsBounded (limbBlocks r n h S) ∧
      limbsValue (limbBlocks r n h S) % p = (absorbBlocks (limbsValue r) n acc S).val := by
  induction n generalizing h acc S with
  | zero => exact ⟨hh, hacc⟩
  | succ n ih =>
    have htake : (S.take 16).length = 16 := by
      rw [List.length_take]
      omega
    obtain ⟨hh', hacc'⟩ := limbBlock_macBlock hh hacc hr (m := S.take 16) (kind := .full) (fun _ => htake) nofun
    exact ih hh' hacc' (by rw [List.length_drop]; omega)

/-- The value layer on a whole message: its full blocks, then the partial one if there is one (41_mac.md R157, R160). -/
theorem finalAcc_macAbsorb_macInit (OTK S : List Byte) :
    (macAbsorb (macInit OTK) S).finalAcc =
      if 0 < S.length - 16 * (S.length / 16) then
        macBlock (macInit OTK).rv (absorbBlocks (macInit OTK).rv (S.length / 16) (modP 0) S)
          (S.drop (16 * (S.length / 16))) .partialBlock
      else absorbBlocks (macInit OTK).rv (S.length / 16) (modP 0) S := by
  have hpend : (macInit OTK).pending ++ S = S := rfl
  have hlen : (macAbsorb (macInit OTK) S).bufLen.val = S.length - 16 * (S.length / 16) := by
    have hzero : (macInit OTK).bufLen.val = 0 := rfl
    rw [macAbsorb_bufLen, hzero]
    omega
  rw [MacState.finalAcc, hlen, macAbsorb_rv, macAbsorb_acc, macAbsorb_pending, hpend]
  rfl

/-- The limbs after a whole message stand for the accumulator before the pad is added. -/
theorem limbMessage_finalAcc (OTK S : List Byte) :
    LimbsBounded (limbMessage (clampLimbs (OTK.take 16)) S) ∧
      limbsValue (limbMessage (clampLimbs (OTK.take 16)) S) % p = (macAbsorb (macInit OTK) S).finalAcc.val := by
  have hr := clampLimbs_masked (OTK.take 16)
  have hzero : LimbsBounded (.replicate 5 0#32) := by
    unfold LimbsBounded
    decide
  obtain ⟨hblocks, hacc⟩ := limbBlocks_absorbBlocks hr (S.length / 16) (acc := modP 0) (S := S) hzero (by decide) (by omega)
  rw [finalAcc_macAbsorb_macInit]
  unfold limbMessage
  dsimp only
  split
  · exact limbBlock_macBlock hblocks hacc hr nofun fun _ => by rw [List.length_drop]; omega
  · exact ⟨hblocks, hacc⟩

/-- Settles O30: block by block the limbs stand for the accumulator, the reduction makes their value canonical, and the pad
addition is the value layer's. -/
theorem limbTagEqualsValueTag : Obligations.LimbTagEqualsValueTag := by
  intro OTK S _
  obtain ⟨hbound, hval⟩ := limbMessage_finalAcc OTK S
  obtain ⟨hsmall, hred⟩ := reduceLimbs_spec hbound
  have hsp : (macAbsorb (macInit OTK) S).sp = padWords ((OTK.drop 16).take 16) := rfl
  rw [limbTag, ← hsp, padLimbs_eq hsmall, hred, hval, MacState.finalTag]

end Sys2Proof.Machine

namespace Sys2Proof.Machine

/-! ## DMEM, its window and the reserved space (20_memory.md R67, R68, R70, R71, R82) -/

/-! MemRead. -/

/-- MemRead answers the bytes of its region, in order, when each of them has a value (20_memory.md R70). -/
theorem read_of_bytes {m : Memory} {a n : Nat} {b : Fin n → Byte} (h : ∀ i : Fin n, m.byte? (a + i.val) = some (b i)) :
    m.read a n = some (List.ofFn b) := by
  refine (read_eq_some_iff m a n _).mpr ⟨List.length_ofFn, fun i hi => ?_⟩
  simp [h ⟨i, hi⟩, hi]

/-- MemRead answers nothing exactly when a byte of its region has no value (20_memory.md R70). -/
theorem read_eq_none_iff (m : Memory) (a n : Nat) : m.read a n = none ↔ ∃ i, i < n ∧ m.byte? (a + i) = none := by
  constructor
  · intro h
    by_contra hall
    have hsome : ∀ i : Fin n, ∃ b, m.byte? (a + i.val) = some b := fun i =>
      Option.ne_none_iff_exists'.mp fun hi => hall ⟨i.val, i.isLt, hi⟩
    choose b hb using hsome
    simp [read_of_bytes hb] at h
  · rintro ⟨i, hi, hnone⟩
    exact read_eq_none (Nat.le_add_right a i) (by omega) hnone

/-- Inside a list the default of `getD` plays no part. -/
theorem getElem?_eq_some_getD {B : List Byte} {i : Nat} (h : i < B.length) : B[i]? = some (B.getD i 0#8) := by
  simp [h]

/-- Settles O52, by the laws of MemRead and MemWrite with `getD` for the bytes of the string. -/
theorem memReadAndMemWrite : Obligations.MemReadAndMemWrite := by
  refine ⟨fun m a n B => ?_, read_eq_none_iff, fun m a B x => ?_, fun _ a B h => wf_write h a B⟩
  · rw [read_eq_some_iff]
    refine and_congr_right fun hlen => forall₂_congr fun i hi => ?_
    rw [getElem?_eq_some_getD (by omega)]
  · rw [byte?_write]
    split
    · exact getElem?_eq_some_getD (by omega)
    · rfl

/-! What commands do to DMEM. -/

/-- The text written back changes no byte outside the T region it was read from (20_memory.md R71, 42_aead.md R206, R207). -/
theorem byte?_writeText_outside {s : State} {D : List Byte} (hD : s.readT = some D) (K N : List Byte) {a : Nat}
    (ha : a < s.textAddr ∨ s.textAddr + s.tLen.toNat ≤ a) :
    (s.dmem.write s.textAddr (keyStreamXor K N D)).byte? a = s.dmem.byte? a := by
  apply byte?_write_outside
  rw [keyStreamXor_length, read_length hD]
  exact ha

/-- Settles O40, effect by effect: only the two AEAD effects that write the text back reach DMEM. -/
theorem onlyAeadWritesText : Obligations.OnlyAeadWritesText := by
  refine ⟨fun i s t h hEnc hDec a => ?_, fun i s t h hi a ha => ?_⟩
  · cases exec_next h with
    | nop | macInit | macUpdateError | macUpdate | macFinalError | ctEq | clear => rfl
    | ksBlock | macFinal => simp
    | aeadEncError | aeadEnc => exact absurd rfl hEnc
    | aeadDecError | aeadDecOpen | aeadDecReject => exact absurd rfl hDec
  · obtain rfl | rfl := hi
    · cases exec_next h with
      | aeadEncError => rfl
      | aeadEnc A P _ _ hT => exact byte?_writeText_outside hT _ _ ha
    · cases exec_next h with
      | aeadDecError | aeadDecReject => rfl
      | aeadDecOpen A C _ _ hT _ => exact byte?_writeText_outside hT _ _ ha

/-! The reserved space. -/

/-- The reserved offsets of the register block and every offset past the DMEM window (10_state.md R23, 20_memory.md R68). -/
theorem locOf_reserved (c : Config) {off : Nat}
    (h : (0x070 ≤ off ∧ off < 0x080) ∨ (0x0C0 ≤ off ∧ off < 0x1000) ∨ 0x1000 + c.dmemBytes ≤ off) :
    locOf c off = .reserved := by
  rcases locOf_cases c off with ⟨_, _⟩ | ⟨_, _, hl⟩ | ⟨_, _, _⟩ | ⟨_, _, hl⟩ | ⟨_, _, _⟩ | ⟨_, hl⟩
  · omega
  · rw [hl]
    rcases operandLoc_cases off with ⟨_, _⟩ | ⟨_, _, _⟩ | ⟨_, _, _⟩ | ⟨_, _, _⟩ | ⟨_, _, _⟩ | ⟨_, hr⟩
    iterate 5 omega
    exact hr
  · omega
  · exact hl
  · omega
  · exact hl

/-- The reserved space is never locked (70_reset_and_hazards.md R327). -/
theorem isLocked_reserved (s : State) : s.isLocked .reserved = false := Bool.and_false _

/-- Settles O45: the offset names the reserved space, which no state locks, reads as 0 and ignores a write. -/
theorem reservedSpaceReadsZero : Obligations.ReservedSpaceReadsZero := by
  intro s off rest v _ hs ha hr hoff
  have hl : locOf (s.takeInput rest).cfg off.toNat = .reserved := locOf_reserved s.cfg (by omega)
  have hu := isLocked_reserved (s.takeInput rest)
  exact ⟨fun hx => ⟨_, (step_read hs hx ha hr).trans (hostRead_unlocked hl hu rfl), rfl⟩,
    fun hx => ⟨_, (step_write hs hx ha hr).trans (hostWrite_unlocked hl hu), rfl⟩⟩

/-! Words and their bytes. -/

/-- Byte i of a serialisation (00_scope.md R12). -/
theorem getElem?_leBytes {n i : Nat} (v : Nat) (h : i < n) : (leBytes n v)[i]? = some (BitVec.ofNat 8 (v / 256 ^ i)) := by
  induction n generalizing v i with
  | zero => omega
  | succ n ih =>
    cases i with
    | zero => simp [leBytes]
    | succ i =>
      rw [leBytes, List.getElem?_cons_succ, ih _ (by omega), Nat.div_div_eq_div_mul, Nat.pow_succ']

/-- Byte j of a register is its bits 8j+7:8j (20_memory.md R62). -/
theorem getElem?_wordBytes (w : Word) {j : Nat} (h : j < 4) : (wordBytes w)[j]? = some (w.extractLsb' (8 * j) 8) := by
  rw [wordBytes, getElem?_leBytes _ h]
  congr 1
  apply BitVec.eq_of_toNat_eq
  rw [BitVec.toNat_ofNat, BitVec.extractLsb'_toNat, Nat.shiftRight_eq_div_pow, Nat.pow_mul]

/-- `LE(B)` as a sum (00_scope.md R12). -/
theorem leNat_ofFn {n : Nat} (b : Fin n → Byte) : leNat (List.ofFn b) = ∑ j : Fin n, (b j).toNat * 2 ^ (8 * j.val) := by
  induction n with
  | zero => rfl
  | succ n ih =>
    rw [List.ofFn_succ, leNat, ih, Fin.sum_univ_succ, Finset.mul_sum]
    congr 1
    · simp
    · refine Finset.sum_congr rfl fun j _ => ?_
      rw [Fin.val_succ]
      ring

/-- The word of four bytes has their little-endian number. -/
theorem toNat_le32 {B : List Byte} (h : B.length = 4) : (le32 B 0).toNat = leNat B := by
  rw [← leNat_wordBytes, wordBytes_le32 B h]

/-! The DMEM window. -/

/-- What a host read of a DMEM word returns (20_memory.md R67). -/
theorem dmemWord_eq (s : State) (k : Nat) : s.dmemWord k = (s.dmem.read k 4).map fun B => le32 B 0 := by
  unfold State.dmemWord State.memRead
  cases s.dmem.read k 4 <;> rfl

/-- Settles O47: the offset names the DMEM word, four bytes are written by `byte?_write` and read by `read_of_bytes`. -/
theorem dmemWindowIsLittleEndian : Obligations.DmemWindowIsLittleEndian := by
  intro s k off hc hb hk hoff
  have ha : off.toNat % 4 = 0 := by omega
  have hr : off.toNat < 2 ^ s.cfg.addrW := inSpace hc (by omega)
  have hl : locOf s.cfg off.toNat = .dmem (4 * k) := by rw [hoff, locOf_window hk]
  have hu := isLocked_idle hb (.dmem (4 * k))
  refine ⟨fun v => ?_, fun b hbytes => ?_, fun ⟨j, hj⟩ => ?_⟩
  · refine ⟨_, (transact_write ha hr).trans (hostWrite_unlocked hl hu), rfl, fun j => ?_, fun a hout => ?_⟩
    · have hj := j.isLt
      simp only [State.writeLoc, memWrite_dmem, byte?_write, wordBytes_length]
      rw [if_pos (by omega), Nat.add_sub_cancel_left, getElem?_wordBytes v hj]
    · exact byte?_write_outside _ _ _ _ (by rwa [wordBytes_length])
  · have hread : s.readLoc (.dmem (4 * k)) = some (le32 (List.ofFn b) 0) := by
      rw [State.readLoc, dmemWord_eq, read_of_bytes hbytes, Option.map_some]
    refine ⟨_, (transact_read ha hr).trans (hostRead_unlocked hl hu hread), ?_⟩
    rw [toNat_le32 List.length_ofFn, leNat_ofFn]
  · have hread : s.readLoc (.dmem (4 * k)) = none := by
      rw [State.readLoc, dmemWord_eq, (read_eq_none_iff _ _ _).mpr ⟨j.val, j.isLt, hj⟩, Option.map_none]
    exact (transact_read ha hr).trans (hostRead_noValue hl hu hread)

end Sys2Proof.Machine

namespace Sys2Proof.Machine

/-! ## Command words and the HOST's program lines (30_encoding.md R90 to R98) -/

/-! The decoder undoes the encoder, and the encoder the decoder. -/

@[simp] theorem decode_encode (i : Instr) : decode (encode i) = .ok i := by
  cases i <;> rfl

/-- The opcode map gives a command only at that command's own family and operation (30_encoding.md R93). -/
theorem decodeOpcode_ok {fam op : Nat} {i : Instr} (h : decodeOpcode fam op = .ok i) :
    fam = i.fam.toNat ∧ op = i.op.toNat := by
  unfold decodeOpcode at h
  split at h
  case h_7 => cases h
  all_goals
    split_ifs at h
    all_goals
      cases h
      exact ⟨rfl, ‹_›⟩

/-- FAM and OP together are bits 7:0 (30_encoding.md R90). -/
theorem famField_append_opField (w : Word) : famField w ++ opField w = w.extractLsb' 0 8 :=
  BitVec.extractLsb'_append_extractLsb'_eq_extractLsb' rfl

/-- A word is RSV, then bits 7:0 (30_encoding.md R90). -/
theorem rsvField_append_low (w : Word) : rsvField w ++ w.extractLsb' 0 8 = w :=
  BitVec.extractLsb'_append_extractLsb' (w := 24) (len := 8)

/-- The word of a command is zero reserved bits, then its opcode (30_encoding.md R90). -/
theorem encode_eq_append (i : Instr) : encode i = 0#24 ++ (i.fam ++ i.op) := by
  cases i <;> rfl

/-- A word that decodes to a command has no reserved bit set and the command's opcode in bits 7:0. -/
theorem fields_of_decode {w : Word} {i : Instr} (h : decode w = .ok i) :
    rsvField w = 0#24 ∧ w.extractLsb' 0 8 = i.fam ++ i.op := by
  unfold decode at h
  split at h
  next hrsv =>
    obtain ⟨hfam, hop⟩ := decodeOpcode_ok h
    rw [← famField_append_opField, BitVec.eq_of_toNat_eq hfam, BitVec.eq_of_toNat_eq hop]
    exact ⟨hrsv, rfl⟩
  next => cases h

/-- No other word has zero reserved bits and the command's opcode in bits 7:0. -/
theorem eq_encode_of_fields {w : Word} {i : Instr} (hrsv : rsvField w = 0#24) (hlow : w.extractLsb' 0 8 = i.fam ++ i.op) :
    w = encode i := by
  rw [← rsvField_append_low w, hrsv, hlow, encode_eq_append]

theorem decode_eq_ok_iff (w : Word) (i : Instr) : decode w = .ok i ↔ w = encode i := by
  constructor
  · intro h
    obtain ⟨hrsv, hlow⟩ := fields_of_decode h
    exact eq_encode_of_fields hrsv hlow
  · rintro rfl
    exact decode_encode i

/-- The table of 30_encoding.md R93. -/
def opcodeTable : List (Word × Instr) :=
  [(0x00000000#32, .nop), (0x00000010#32, .ksBlock), (0x00000020#32, .macInit), (0x00000021#32, .macUpdate),
   (0x00000022#32, .macFinal), (0x00000030#32, .aeadEnc), (0x00000031#32, .aeadDec), (0x00000040#32, .ctEq),
   (0x000000F0#32, .clear)]

/-- The rows of the table are the nine commands, each with its word. -/
theorem mem_opcodeTable_iff (w : Word) (i : Instr) : (w, i) ∈ opcodeTable ↔ w = encode i := by
  constructor
  · have hrows : ∀ row ∈ opcodeTable, row.1 = encode row.2 := by decide
    exact hrows (w, i)
  · rintro rfl
    cases i <;> decide

/-- Settles O2: to decode to a command, to be its word and to stand in its row are the same thing. -/
theorem decodeIsFullWordMatch : Obligations.DecodeIsFullWordMatch :=
  ⟨fun w i => (decode_eq_ok_iff w i).trans (mem_opcodeTable_iff w i).symm, decode_eq_ok_iff⟩

/-- Settles O1: each of the nine words is what the encoder gives. -/
theorem tableWordsDecode : Obligations.TableWordsDecode :=
  ⟨decode_encode .nop, decode_encode .ksBlock, decode_encode .macInit, decode_encode .macUpdate, decode_encode .macFinal,
    decode_encode .aeadEnc, decode_encode .aeadDec, decode_encode .ctEq, decode_encode .clear⟩

/-! Illegal words. -/

/-- The opcodes of 30_encoding.md R93. -/
def opcodes : List (BitVec 8) := [0x00#8, 0x10#8, 0x20#8, 0x21#8, 0x22#8, 0x30#8, 0x31#8, 0x40#8, 0xF0#8]

theorem mem_opcodes_iff (b : BitVec 8) : b ∈ opcodes ↔ ∃ i : Instr, b = i.fam ++ i.op := by
  constructor
  · have hrows : ∀ b ∈ opcodes, ∃ row ∈ opcodeTable, b = row.2.fam ++ row.2.op := by decide
    intro hb
    obtain ⟨row, -, hrow⟩ := hrows b hb
    exact ⟨row.2, hrow⟩
  · rintro ⟨i, rfl⟩
    cases i <;> decide

/-- A word is a command's iff its reserved bits are zero and its bits 7:0 are an opcode (30_encoding.md R93, R94). -/
theorem exists_decode_ok_iff (w : Word) :
    (∃ i, decode w = .ok i) ↔ rsvField w = 0#24 ∧ w.extractLsb' 0 8 ∈ opcodes := by
  rw [mem_opcodes_iff]
  constructor
  · rintro ⟨i, hi⟩
    obtain ⟨hrsv, hlow⟩ := fields_of_decode hi
    exact ⟨hrsv, i, hlow⟩
  · rintro ⟨hrsv, i, hlow⟩
    exact ⟨i, (decode_eq_ok_iff w i).mpr (eq_encode_of_fields hrsv hlow)⟩

/-- A word is rejected iff it is no command's. -/
theorem exists_decode_error_iff (w : Word) : (∃ r, decode w = .error r) ↔ ¬ ∃ i, decode w = .ok i := by
  cases decode w <;> simp

/-- A CMD write to an idle CORE issues its word (60_exceptions.md R280). -/
theorem step_issue {s : State} {v : Word} {rest : List HostInput} (hc : s.cfg.WF) (hb : s.busy = false)
    (hx : s.inbox = .bus (.write 0x00C#32 32 v) :: rest) : step s = .next ((s.takeInput rest).issue v) :=
  (step_input (seqTurn_idle hb) hx).trans (transact_write_idle (l := .cmd) hc hb (by decide) (by decide) rfl)

/-- Settles O3: a word is rejected iff it is no command's, it is issued as any word is, and on SEQ's turn it completes. -/
theorem illegalWordsAreAcceptedAndRejected : Obligations.IllegalWordsAreAcceptedAndRejected := by
  refine ⟨fun w => ?_, fun s w rest _ hc hb hx => ⟨_, step_issue hc hb hx, rfl⟩, ?_⟩
  · rw [exists_decode_error_iff, exists_decode_ok_iff, not_and_or]
    rfl
  · rintro s ⟨r, hr⟩ hs
    exact ⟨_, step_illegal hs hr, rfl⟩

/-! Words and bytes on the bus. -/

/-- The first word of a byte string, 0x00 past its end (00_scope.md R12, 30_encoding.md R98). -/
theorem le32_zero_eq_getD : ∀ B : List Byte,
    le32 B 0 = le32 [B.getD 0 0#8, B.getD 1 0#8, B.getD 2 0#8, B.getD 3 0#8] 0
  | [] | [_] | [_, _] | [_, _, _] | _ :: _ :: _ :: _ :: _ => by simp [le32, leNat]

theorem le32_eq_getD (B : List Byte) (o : Nat) :
    le32 B o = le32 [B.getD o 0#8, B.getD (o + 1) 0#8, B.getD (o + 2) 0#8, B.getD (o + 3) 0#8] 0 := by
  have hfirst := le32_zero_eq_getD (B.drop o)
  rw [le32_drop] at hfirst
  simpa [List.getElem?_drop] using hfirst

theorem getD_append_zeros (B : List Byte) (n i : Nat) : (B ++ zeros n).getD i 0#8 = B.getD i 0#8 := by
  obtain hi | hi := Nat.lt_or_ge i B.length
  · exact List.getD_append _ _ _ _ hi
  · rw [List.getD_append_right _ _ _ _ hi, List.getD_eq_default _ _ hi, List.getD_eq_getElem?_getD]
    exact List.getElem?_getD_replicate_default_eq _ n _

/-- Zeros past the end of a byte string change none of its words. -/
theorem le32_append_zeros (B : List Byte) (n o : Nat) : le32 (B ++ zeros n) o = le32 B o := by
  rw [le32_eq_getD, le32_eq_getD B]
  simp only [getD_append_zeros]

/-- The offset of word k + 1 of a run is that of word k of the run that starts one word later. -/
theorem offset_succ (off : Word) (k : Nat) :
    off + BitVec.ofNat 32 (4 * (k + 1)) = off + 4#32 + BitVec.ofNat 32 (4 * k) := by
  rw [Nat.mul_succ, Nat.add_comm, BitVec.ofNat_add, BitVec.add_assoc]

theorem writeWords_eq_map (n : Nat) (off : Word) (bs : List Byte) :
    writeWords n off bs =
      (List.range n).map fun k => hostW (off + BitVec.ofNat 32 (4 * k)) (le32 bs (4 * k)) := by
  induction n generalizing off bs with
  | zero => rfl
  | succ n ih =>
    rw [writeWords, ih, le32_append_zeros, List.range_succ_eq_map, List.map_cons, List.map_map]
    congr 1
    · simp
    · refine List.map_congr_left fun k _ => ?_
      rw [Function.comp_apply, Nat.succ_eq_add_one, offset_succ, le32_drop, Nat.mul_succ, Nat.add_comm]

theorem readWords_eq_map (n : Nat) (off : Word) :
    readWords n off = (List.range n).map fun k => hostR (off + BitVec.ofNat 32 (4 * k)) := by
  induction n generalizing off with
  | zero => rfl
  | succ n ih =>
    rw [readWords, ih, List.range_succ_eq_map, List.map_cons, List.map_map]
    congr 1
    · simp
    · refine List.map_congr_left fun k _ => ?_
      rw [Function.comp_apply, Nat.succ_eq_add_one, offset_succ]

/-- A byte string that fills n registers is written to them as its LE32 words (30_encoding.md R98). -/
theorem hostWB_registers {base n : Nat} {bs : List Byte} (h : bs.length = 4 * n) :
    hostWB (BitVec.ofNat 32 base) bs =
      (List.range n).map fun i => hostW (BitVec.ofNat 32 (base + 4 * i)) (le32 bs (4 * i)) := by
  rw [hostWB, show (bs.length + 3) / 4 = n by omega, writeWords_eq_map]
  simp only [BitVec.ofNat_add]

/-- Byte i of a run of registers is byte i mod 4 of register i / 4 (20_memory.md R62). -/
theorem getElem?_wordsBytes {ws : List Word} {i : Nat} (h : i < 4 * ws.length) :
    (wordsBytes ws)[i]? = some ((ws.getD (i / 4) 0#32).extractLsb' (8 * (i % 4)) 8) := by
  induction ws generalizing i with
  | nil => exact absurd h (Nat.not_lt_zero i)
  | cons w ws ih =>
    rw [List.length_cons] at h
    rw [wordsBytes, List.flatMap_cons]
    obtain hi | hi := Nat.lt_or_ge i 4
    · rw [List.getElem?_append_left (by rwa [wordBytes_length]), getElem?_wordBytes w hi, Nat.div_eq_of_lt hi,
        Nat.mod_eq_of_lt hi]
      rfl
    · obtain ⟨j, rfl⟩ := Nat.exists_eq_add_of_le' hi
      rw [List.getElem?_append_right (by rwa [wordBytes_length]), wordBytes_length, Nat.add_sub_cancel,
        Nat.add_mod_right, Nat.add_div_right j (by decide), List.getD_cons_succ]
      exact ih (by omega)

theorem boundBytes_length {n : Nat} {values : List Word} (h : n ≤ 4 * values.length) :
    (boundBytes n values).length = n := by
  rw [boundBytes, List.length_take, wordsBytes_length, Nat.min_eq_left h]

theorem getD_boundBytes {n i : Nat} {values : List Word} (h : n ≤ 4 * values.length) (hi : i < n) :
    (boundBytes n values).getD i 0#8 = (values.getD (i / 4) 0#32).extractLsb' (8 * (i % 4)) 8 := by
  rw [boundBytes, List.getD_eq_getElem?_getD, List.getElem?_take_of_lt hi, getElem?_wordsBytes (by omega), Option.getD_some]

/-! WAIT. -/

/-- A poll of a busy CORE leaves WAIT in front of the inputs (30_encoding.md R98). -/
theorem step_wait_busy {s : State} {rest : List HostInput} (hs : s.seqTurn = false) (hx : s.inbox = .wait :: rest)
    (hb : s.busy = true) :
    step s = .next { s with delay := s.delay - 1, readLog := (0x008#32, s.statusWord) :: s.readLog } := by
  rw [step_input hs hx, State.perform, State.poll, takeInput_busy, if_pos hb, takeInput_inbox, ← hx]
  rfl

/-- A poll of an idle CORE ends WAIT (30_encoding.md R98). -/
theorem step_wait_idle {s : State} {rest : List HostInput} (hs : s.seqTurn = false) (hx : s.inbox = .wait :: rest)
    (hb : s.busy = false) :
    step s = .next { s with inbox := rest, delay := s.delay - 1, readLog := (0x008#32, s.statusWord) :: s.readLog } := by
  rw [step_input hs hx, State.perform, State.poll, takeInput_busy, if_neg (ne_true_of_eq_false hb)]
  rfl

/-- Settles O51, line by line: WB by `writeWords_eq_map`, RB by `readWords_eq_map` and the bytes of its words. -/
theorem hostProgramLinesExpand : Obligations.HostProgramLinesExpand := by
  refine ⟨fun off bs => ?_, fun bs => ⟨rfl, rfl, rfl, rfl, fun _ => rfl⟩, fun off n name => ⟨?_, fun values h => ?_⟩,
    rfl, rfl, fun bs h => hostWB_registers h, fun bs h => hostWB_registers h, fun bs h => hostWB_registers h,
    fun bs h => hostWB_registers h, fun i => ⟨rfl, rfl⟩, fun s rest hs hx => ⟨step_wait_busy hs hx, step_wait_idle hs hx⟩⟩
  · rw [expandLine, hostWB, writeWords_eq_map]
    refine List.map_congr_left fun k _ => ?_
    rw [hostW, le32_eq_getD]
  · exact readWords_eq_map _ off
  · have hn : n ≤ 4 * values.length := by omega
    exact ⟨boundBytes_length hn, fun i hi => getD_boundBytes hn hi⟩

end Sys2Proof.Machine

namespace Sys2Proof.Machine

/-! ## The keystream generator (40_keystream.md R120 to R129) -/

/-! The quarter-round loses nothing. -/

/-- A rotation moves bit i to bit (i + n) mod 32 (00_scope.md R13). -/
theorem getLsbD_rotl32 (x : Word) {n i : Nat} (hn : n < 32) (hi : i < 32) :
    (rotl32 x n).getLsbD ((i + n) % 32) = x.getLsbD i := by
  rw [rotl32, BitVec.getLsbD_or, BitVec.getLsbD_shiftLeft, BitVec.getLsbD_ushiftRight]
  obtain hwrap | hwrap := Nat.lt_or_ge (i + n) 32
  · have hhigh : x.getLsbD (32 - n + (i + n)) = false := BitVec.getLsbD_of_ge _ _ (by omega)
    rw [Nat.mod_eq_of_lt hwrap, hhigh]
    simp [hwrap]
  · have hmod : (i + n) % 32 = i + n - 32 := by omega
    have hlow : i + n - 32 < n := by omega
    have hbit : 32 - n + (i + n - 32) = i := by omega
    rw [hmod, hbit]
    simp [hlow]

theorem rotl32_injective {n : Nat} (hn : n < 32) : Function.Injective (rotl32 · n) := by
  intro x y (h : rotl32 x n = rotl32 y n)
  refine BitVec.eq_of_getLsbD_eq fun i hi => ?_
  rw [← getLsbD_rotl32 x hn hi, h, getLsbD_rotl32 y hn hi]

/-- Six of the twelve operations of a quarter-round, with rotations by m and n. -/
def halfRound (m n : Nat) : Word × Word × Word × Word → Word × Word × Word × Word
  | (a, b, c, d) =>
    let a := a + b
    let d := rotl32 (d ^^^ a) m
    let c := c + d
    (a, rotl32 (b ^^^ c) n, c, d)

/-- The two halves of a quarter-round differ in their rotations only (40_keystream.md R124). -/
theorem quarterRound_eq_halfRounds (a b c d : Word) :
    quarterRound a b c d = halfRound 8 7 (halfRound 16 12 (a, b, c, d)) := rfl

/-- Each operation of a half round can be undone, the last one first. -/
theorem halfRound_injective {m n : Nat} (hm : m < 32) (hn : n < 32) : Function.Injective (halfRound m n) := by
  rintro ⟨a, b, c, d⟩ ⟨a', b', c', d'⟩ h
  simp only [halfRound, Prod.mk.injEq] at h
  obtain ⟨ha, hb, hc, hd⟩ := h
  rw [hd] at hc
  obtain rfl : c = c' := add_right_cancel hc
  obtain rfl : b = b' := (BitVec.xor_left_inj _).mp (rotl32_injective hn (hd ▸ hb))
  obtain rfl : a = a' := add_right_cancel ha
  obtain rfl : d = d' := (BitVec.xor_left_inj _).mp (rotl32_injective hm hd)
  rfl

theorem quarterRound_injective {a b c d a' b' c' d' : Word} (h : quarterRound a b c d = quarterRound a' b' c' d') :
    (a, b, c, d) = (a', b', c', d') :=
  halfRound_injective (by decide) (by decide) (halfRound_injective (by decide) (by decide) h)

/-! QR on the matrix. -/

/-- The words of a matrix that a tuple of indices names (40_keystream.md R123). -/
def wordsAt (W : KsgMatrix) (a b c d : Fin 16) : Word × Word × Word × Word := (W[a], W[b], W[c], W[d])

/-- QR leaves the other words as they are (40_keystream.md R124). -/
theorem getElem_qr_of_notMem {W : KsgMatrix} {a b c d i : Fin 16} (hi : i ∉ [a, b, c, d]) : (qr W a b c d)[i] = W[i] := by
  simp only [List.mem_cons, List.not_mem_nil, or_false, not_or, Fin.ext_iff] at hi
  obtain ⟨ha, hb, hc, hd⟩ := hi
  simp [qr, Ne.symm ha, Ne.symm hb, Ne.symm hc, Ne.symm hd]

/-- On four different indices QR puts the quarter-round of their words there (40_keystream.md R124). -/
theorem wordsAt_qr (W : KsgMatrix) {a b c d : Fin 16} (h : [a, b, c, d].Nodup) :
    wordsAt (qr W a b c d) a b c d = quarterRound W[a] W[b] W[c] W[d] := by
  simp only [List.nodup_cons, List.mem_cons, List.not_mem_nil, or_false, not_or, Fin.ext_iff] at h
  obtain ⟨⟨hab, hac, had⟩, ⟨hbc, hbd⟩, hcd, -⟩ := h
  simp [wordsAt, qr, Ne.symm hab, Ne.symm hac, Ne.symm had, Ne.symm hbc, Ne.symm hbd, Ne.symm hcd]

/-- Word i after QR depends on the four words of the tuple and on word i alone. -/
theorem getElem_qr_congr {V W : KsgMatrix} {a b c d i : Fin 16} (h : ∀ j ∈ [i, a, b, c, d], V[j] = W[j]) :
    (qr V a b c d)[i] = (qr W a b c d)[i] := by
  simp only [List.forall_mem_cons, Fin.getElem_fin] at h
  obtain ⟨hi, ha, hb, hc, hd, -⟩ := h
  simp [qr, Vector.getElem_set, hi, ha, hb, hc, hd]

/-- Settles O17: the words of the tuple by `wordsAt_qr`, the other twelve by `getElem_qr_of_notMem`. -/
theorem quarterRoundTouchesFourWords : Obligations.QuarterRoundTouchesFourWords := by
  refine ⟨by decide, ?_⟩
  rintro W a b c d h _ _ _ _ _ _ _ _ rfl rfl rfl rfl rfl rfl rfl rfl
  have hwords := wordsAt_qr W h
  simp only [wordsAt, quarterRound, Prod.mk.injEq] at hwords
  obtain ⟨ha, hb, hc, hd⟩ := hwords
  exact ⟨ha, hb, hc, hd, fun i hi => getElem_qr_of_notMem hi⟩

/-! Quarter-rounds on disjoint tuples. -/

/-- Outside the first of two disjoint tuples both orders leave what the quarter-round on the second makes. -/
theorem getElem_qr_comm (W : KsgMatrix) {a b c d e f g h i : Fin 16} (hdis : [a, b, c, d].Disjoint [e, f, g, h])
    (hi : i ∉ [a, b, c, d]) : (qr (qr W a b c d) e f g h)[i] = (qr (qr W e f g h) a b c d)[i] := by
  have hkept : ∀ j ∈ [i, e, f, g, h], (qr W a b c d)[j] = W[j] :=
    List.forall_mem_cons.mpr ⟨getElem_qr_of_notMem hi, fun _ hj => getElem_qr_of_notMem fun hj' => hdis hj' hj⟩
  rw [getElem_qr_congr hkept, getElem_qr_of_notMem hi]

theorem qr_comm (W : KsgMatrix) {a b c d e f g h : Fin 16} (hdis : [a, b, c, d].Disjoint [e, f, g, h]) :
    qr (qr W a b c d) e f g h = qr (qr W e f g h) a b c d := by
  refine Vector.ext fun i hi => ?_
  by_cases hmem : (⟨i, hi⟩ : Fin 16) ∈ [a, b, c, d]
  · exact (getElem_qr_comm W hdis.symm (hdis hmem)).symm
  · exact getElem_qr_comm W hdis hmem

/-- Settles O18, by `qr_comm`; the order of the double round is its definition. -/
theorem disjointQuarterRoundsCommute : Obligations.DisjointQuarterRoundsCommute :=
  ⟨fun W a b c d e f g h hnodup =>
      qr_comm W (List.disjoint_of_nodup_append (l₁ := [a, b, c, d]) (l₂ := [e, f, g, h]) hnodup),
    fun _ => rfl⟩

/-! The double round loses nothing. -/

theorem qr_injective {a b c d : Fin 16} (h : [a, b, c, d].Nodup) : Function.Injective (qr · a b c d) := by
  intro V W (hVW : qr V a b c d = qr W a b c d)
  have hwords : wordsAt V a b c d = wordsAt W a b c d := by
    apply quarterRound_injective
    rw [← wordsAt_qr V h, hVW, wordsAt_qr W h]
  have htuple : ∀ j ∈ [a, b, c, d], V[j] = W[j] := by simpa [wordsAt] using hwords
  refine Vector.ext fun i hi => ?_
  by_cases hmem : (⟨i, hi⟩ : Fin 16) ∈ [a, b, c, d]
  · exact htuple _ hmem
  · have hother := getElem_qr_of_notMem (W := V) hmem
    rw [hVW, getElem_qr_of_notMem hmem] at hother
    exact hother.symm

theorem columnRound_injective : Function.Injective columnRound := fun _ _ h =>
  qr_injective (by decide) (qr_injective (by decide) (qr_injective (by decide) (qr_injective (by decide) h)))

theorem diagonalRound_injective : Function.Injective diagonalRound := fun _ _ h =>
  qr_injective (by decide) (qr_injective (by decide) (qr_injective (by decide) (qr_injective (by decide) h)))

/-- Settles O19: each of the eight quarter-rounds of a double round is injective. -/
theorem doubleRoundIsInjective : Obligations.DoubleRoundIsInjective :=
  diagonalRound_injective.comp columnRound_injective

/-! The block and KS_BLOCK. -/

theorem doubleRounds_eq_iterate (n : Nat) (W : KsgMatrix) : doubleRounds n W = doubleRound^[n] W := by
  induction n generalizing W with
  | zero => rfl
  | succ n ih => rw [doubleRounds, ih, Function.iterate_succ_apply]

theorem getElem_outputMatrix (X : KsgMatrix) (i : Fin 16) : (outputMatrix X)[i] = (doubleRound^[10] X)[i] + X[i] := by
  rw [← doubleRounds_eq_iterate]
  simp [outputMatrix]

/-- Word i of the block is word i of the output matrix (40_keystream.md R126). -/
theorem le32_chachaBlock (K : List Byte) (ctr : Word) (N : List Byte) (i : Fin 16) :
    le32 (chachaBlock K ctr N) (4 * i.val) = (outputMatrix (initialMatrix K ctr N))[i] := by
  rw [chachaBlock, le32_wordsBytes _ _ (by simp)]
  simp

/-- Settles O16: the matrix written out is the initial matrix, and the block is the output matrix as bytes. -/
theorem blockIsTenDoubleRoundsPlusInput : Obligations.BlockIsTenDoubleRoundsPlusInput := by
  refine fun K ctr N => ⟨chachaBlock_length K ctr N, ?_⟩
  intro X hX i
  have hinit : X = initialMatrix K ctr N := hX
  rw [le32_chachaBlock, getElem_outputMatrix, hinit]

/-- A run of registers that holds a byte string holds its words (20_memory.md R62). -/
theorem getElem_bytesWords (n : Nat) (B : List Byte) (i : Fin n) : (bytesWords n B)[i] = le32 B (4 * i.val) := by
  simp [bytesWords]

theorem exec_ksBlock (s : State) :
    exec .ksBlock s = .next (((s.setKs (chachaBlock s.keyBytes s.counter s.nonceBytes)).forgetKsg).complete .ok) := rfl

/-- Settles O15: KS holds the words of the block by `setKs_ks`, and no other field is written but those named. -/
theorem ksBlockWritesKeystream : Obligations.KsBlockWritesKeystream := by
  refine ⟨decode_encode .ksBlock, fun s => ⟨_, exec_ksBlock s, fun i => ?_, ?_⟩⟩
  · rw [complete_ks, forgetKsg_ks, setKs_ks, getElem_bytesWords]
  · simp only [State.setKs, State.forgetKsg, State.complete]

end Sys2Proof.Machine

namespace Sys2Proof.Machine

/-! ## The MAC and its commands (41_mac.md R152 to R167) -/

/-! Clamping (41_mac.md R153). -/

theorem leNat_take (n : Nat) (B : List Byte) : leNat (B.take n) = leNat B % 256 ^ n := by
  induction n generalizing B with
  | zero => simp [leNat, Nat.mod_one]
  | succ n ih =>
    cases B with
    | nil => simp [leNat]
    | cons b B =>
      have hb := b.isLt
      have hdiv : (b.toNat + 256 * leNat B) / 256 = leNat B := by omega
      rw [List.take_succ_cons, leNat, leNat, ih, Nat.pow_succ', Nat.mod_mul, hdiv]
      omega

theorem leNat_drop (n : Nat) (B : List Byte) : leNat (B.drop n) = leNat B / 256 ^ n := by
  induction n generalizing B with
  | zero => simp
  | succ n ih =>
    cases B with
    | nil => simp [leNat]
    | cons b B =>
      have hb := b.isLt
      rw [List.drop_succ_cons, leNat, ih, Nat.pow_succ', ← Nat.div_div_eq_div_mul]
      congr 1
      omega

/-- Bit i of the word at byte o is bit 8o + i of the whole number (00_scope.md R12). -/
theorem getLsbD_le32 (B : List Byte) (o : Nat) {i : Nat} (hi : i < 32) :
    (le32 B o).getLsbD i = (leNat B).testBit (8 * o + i) := by
  have hpow : 256 ^ o = 2 ^ (8 * o) := by rw [Nat.pow_mul]
  have hword : 256 ^ 4 = 2 ^ 32 := by norm_num
  rw [le32, leNat_take, leNat_drop, hpow, hword, BitVec.getLsbD_ofNat, Nat.testBit_mod_two_pow, Nat.testBit_div_two_pow]
  simp [hi, Nat.add_comm]

/-- No bit of a mask reaches past the word that R153 reads for its limb. -/
theorem clampMask_inWord : ∀ k : Fin 5, ∀ i : Fin 32, clampMask[k].getLsbD i.val = true → 2 * k.val + i.val < 32 := by
  decide

theorem getElem_clampLimbs (r : List Byte) (k : Fin 5) :
    (clampLimbs r)[k] = BitVec.ofNat 32 ((leNat r >>> (26 * k.val)) &&& clampMask[k].toNat) := by
  simp [clampLimbs]

/-- A limb is the word at byte 3k, shifted by 2k, under the limb's mask (41_mac.md R153). -/
theorem clampLimbs_eq_le32 (r : List Byte) (k : Fin 5) :
    (clampLimbs r)[k] = (le32 r (3 * k.val) >>> (2 * k.val)) &&& clampMask[k] := by
  rw [getElem_clampLimbs]
  refine BitVec.eq_of_getLsbD_eq fun i hi => ?_
  rw [BitVec.getLsbD_ofNat, decide_eq_true hi, Bool.true_and, Nat.testBit_and, Nat.testBit_shiftRight,
    BitVec.testBit_toNat, BitVec.getLsbD_and, BitVec.getLsbD_ushiftRight]
  cases hmask : clampMask[k].getLsbD i with
  | false => rw [Bool.and_false, Bool.and_false]
  | true =>
    have hbit : 8 * (3 * k.val) + (2 * k.val + i) = 26 * k.val + i := by omega
    rw [getLsbD_le32 _ _ (clampMask_inWord k ⟨i, hi⟩ hmask), hbit]

/-- The five masks in one 128-bit mask (41_mac.md R153). -/
def clampMask128 : Nat := 0x0FFFFFFC0FFFFFFC0FFFFFFC0FFFFFFF

theorem clampMask_eq : ∀ k : Fin 5, clampMask[k].toNat = clampMask128 / 2 ^ (26 * k.val) % 2 ^ 26 := by
  decide

/-- Limb k is bits 26k+25:26k of the number under the 128-bit mask. -/
theorem toNat_clampLimbs (r : List Byte) (k : Fin 5) :
    (clampLimbs r)[k].toNat = (leNat r &&& clampMask128) / 2 ^ (26 * k.val) % 2 ^ 26 := by
  have hlimb : (leNat r >>> (26 * k.val)) &&& clampMask[k].toNat =
      (leNat r &&& clampMask128) / 2 ^ (26 * k.val) % 2 ^ 26 := by
    have hmod : clampMask[k].toNat % 2 ^ 26 = clampMask[k].toNat := by
      rw [clampMask_eq, Nat.mod_mod]
    have hlt : (leNat r >>> (26 * k.val)) &&& clampMask[k].toNat < 2 ^ 26 :=
      Nat.and_lt_two_pow _ (by rw [← hmod]; exact Nat.mod_lt _ (by decide))
    rw [← Nat.mod_eq_of_lt hlt, Nat.and_mod_two_pow, hmod, clampMask_eq, ← Nat.and_mod_two_pow,
      Nat.shiftRight_eq_div_pow, Nat.and_div_two_pow]
  rw [getElem_clampLimbs, BitVec.toNat_ofNat, hlimb]
  exact Nat.mod_eq_of_lt (Nat.lt_trans (Nat.mod_lt _ (by decide)) (by decide))

/-- Limbs that are the 26-bit digits of a number have its value. -/
theorem limbsValue_of_digits {h : Limbs} {n : Nat} (hn : n < 2 ^ 130)
    (hdigit : ∀ k : Fin 5, h[k].toNat = n / 2 ^ (26 * k.val) % 2 ^ 26) : limbsValue h = n := by
  have h0 : h[0].toNat = n % 2 ^ 26 := by simpa using hdigit 0
  have h1 : h[1].toNat = n / 2 ^ 26 % 2 ^ 26 := hdigit 1
  have h2 : h[2].toNat = n / 2 ^ 52 % 2 ^ 26 := hdigit 2
  have h3 : h[3].toNat = n / 2 ^ 78 % 2 ^ 26 := hdigit 3
  have h4 : h[4].toNat = n / 2 ^ 104 % 2 ^ 26 := hdigit 4
  rw [limbsValue, h0, h1, h2, h3, h4]
  omega

/-- The clamped limbs together are the number under the 128-bit mask. -/
theorem limbsValue_clampLimbs (r : List Byte) : limbsValue (clampLimbs r) = leNat r &&& clampMask128 :=
  limbsValue_of_digits (Nat.lt_of_le_of_lt Nat.and_le_right (by decide)) (toNat_clampLimbs r)

/-- Settles O21: the table is the definition of `clampLimbs`; the words and the one mask are read bit by bit. -/
theorem clampingIsOneMask : Obligations.ClampingIsOneMask := fun r _ =>
  ⟨getElem_clampLimbs r 0, getElem_clampLimbs r 1, getElem_clampLimbs r 2, getElem_clampLimbs r 3,
    getElem_clampLimbs r 4, clampLimbs_eq_le32 r, limbsValue_clampLimbs r⟩

/-! Absorbing in pieces (41_mac.md R157). -/

/-- Absorbing two byte strings one after the other is absorbing them as one. -/
theorem macAbsorb_append (m : MacState) (D E : List Byte) : macAbsorb (macAbsorb m D) E = macAbsorb m (D ++ E) := by
  obtain ⟨S, hS⟩ : ∃ S, m.pending ++ D = S := ⟨_, rfl⟩
  have hfull : 16 * (S.length / 16) ≤ S.length := Nat.mul_div_le _ _
  have hall : m.pending ++ (D ++ E) = S ++ E := by rw [← hS, List.append_assoc]
  have hrest : (macAbsorb m D).pending ++ E = (S ++ E).drop (16 * (S.length / 16)) := by
    rw [macAbsorb_pending, hS, List.drop_append_of_le_length hfull]
  have hcount : (S ++ E).length / 16 = S.length / 16 + ((S ++ E).drop (16 * (S.length / 16))).length / 16 := by
    rw [List.length_drop, List.length_append]
    omega
  refine macState_ext ?_ rfl rfl ?_ ?_ rfl
  · rw [macAbsorb_acc, macAbsorb_acc, macAbsorb_acc, macAbsorb_rv, hrest, hall, hcount, absorbBlocks_add, hS,
      absorbBlocks_append _ _ _ _ _ hfull]
  · rw [macAbsorb_buf, macAbsorb_buf, hrest, hall, hcount, List.drop_drop, Nat.mul_add]
  · rw [macAbsorb_bufLen, macAbsorb_bufLen, macAbsorb_bufLen, List.length_append]
    omega

/-- BUF is zero past what is absorbed into it. -/
theorem macAbsorb_tailZero (m : MacState) (D : List Byte) (i : Fin 15) (hi : (macAbsorb m D).bufLen.val ≤ i.val) :
    (macAbsorb m D).buf[i] = 0#8 := by
  rw [← pending_length, macAbsorb_pending] at hi
  exact bytesStore_past_end i hi

/-- Settles O23: the blocks of two byte strings are the blocks of the first and those of its rest with the second. -/
theorem absorbingIgnoresSplit : Obligations.AbsorbingIgnoresSplit :=
  ⟨macAbsorb_append, fun m D => ⟨macAbsorb_bufLen m D, macAbsorb_pending m D, macAbsorb_tailZero m D⟩⟩

/-! The polynomial (41_mac.md R158). -/

/-- Settles O25, by induction on the number of blocks: the first block's value takes part in every later product. -/
theorem blocksEvaluatePolynomial : Obligations.BlocksEvaluatePolynomial := by
  intro rv n acc S
  induction n generalizing acc S with
  | zero =>
    rw [absorbBlocks, Finset.sum_range_zero, Nat.pow_zero, Nat.mul_one, Nat.add_zero]
    exact (Nat.mod_eq_of_lt acc.isLt).symm
  | succ n ih =>
    have hrest : ∀ j ∈ Finset.range n,
        (leNat (((S.drop 16).drop (16 * j)).take 16) + 2 ^ 128) * rv ^ (n - j) =
          (leNat ((S.drop (16 * (j + 1))).take 16) + 2 ^ 128) * rv ^ (n + 1 - (j + 1)) := fun j _ => by
      rw [List.drop_drop, Nat.add_sub_add_right, Nat.mul_succ, Nat.add_comm 16]
    have hblock : (macBlock rv acc (S.take 16) .full).val =
      (acc.val + (leNat (S.take 16) + 2 ^ 128)) * rv % (2 ^ 130 - 5) := rfl
    rw [absorbBlocks, ih, Finset.sum_congr rfl hrest, hblock, Finset.sum_range_succ']
    refine (((Nat.mod_modEq _ _).mul_right _).add_right _).trans (congrArg (· % _) ?_)
    simp only [Nat.mul_zero, List.drop_zero, Nat.sub_zero]
    ring

/-! MAC_INIT (41_mac.md R165). -/

theorem exec_macInit (s : State) : exec .macInit s = .next ({ s with mac := macInit s.keyBytes }.complete .ok) := rfl

/-- SP is the second half of the one-time key, word by word (41_mac.md R152). -/
theorem macInit_sp {OTK : List Byte} (h : OTK.length = 32) : (macInit OTK).sp = bytesWords 4 (OTK.drop 16) := by
  have hall : (OTK.drop 16).take 16 = OTK.drop 16 := List.take_of_length_le (by simp [h])
  exact congrArg (bytesWords 4) hall

/-- With the multiplier 0 every block step gives 0. -/
theorem macBlock_zero (acc : Fin p) (m : List Byte) (kind : BlockKind) : macBlock 0 acc m kind = modP 0 := by
  rw [macBlock, Nat.mul_zero]

theorem absorbBlocks_zero (n : Nat) (S : List Byte) : absorbBlocks 0 n (modP 0) S = modP 0 := by
  induction n generalizing S with
  | zero => rfl
  | succ n ih => rw [absorbBlocks, macBlock_zero, ih]

/-- With the multiplier 0, and 0 absorbed so far, the accumulator is 0 at the end. -/
theorem finalAcc_macAbsorb_zero {m : MacState} (hrv : m.rv = 0) (hacc : m.acc = modP 0) (D : List Byte) :
    (macAbsorb m D).finalAcc = modP 0 := by
  rw [MacState.finalAcc, macAbsorb_rv, macAbsorb_acc, hrv, hacc, absorbBlocks_zero, macBlock_zero, ite_self]

/-- A session keyed with zeros has the zero tag (41_mac.md R165). -/
theorem finalTag_zeroKey (D : List Byte) : (macAbsorb (macInit (zeros 32)) D).finalTag = zeros 16 := by
  have hrv : (macInit (zeros 32)).rv = 0 := by decide
  have hsv : (macInit (zeros 32)).sv = 0 := by decide
  rw [MacState.finalTag, macAbsorb_sv, finalAcc_macAbsorb_zero hrv rfl, hsv]
  rfl

/-- Settles O20: the new session is `macInit` of KEY, and the zero key has multiplier and pad 0. -/
theorem macInitOpensSession : Obligations.MacInitOpensSession := by
  refine ⟨decode_encode .macInit, fun s => ⟨_, exec_macInit s, rfl, rfl, rfl, fun i => ?_, rfl, rfl, rfl⟩,
    fun s t hkey ht D => ?_⟩
  · rw [complete_mac, macInit_sp (keyBytes_length s), getElem_bytesWords, le32_drop]
  · obtain rfl := Host.Outcome.next.inj ((exec_macInit s).symm.trans ht)
    rw [complete_mac, hkey, finalTag_zeroKey]

/-! MAC_UPDATE (41_mac.md R166). -/

theorem exec_macUpdate_failed {s : State} {c : Code} (hc : s.macUpdateCheck = some c) :
    exec .macUpdate s = .next (s.complete c) := by
  simp only [exec, execMacUpdate, hc, raiseCmdError_eq_complete]

theorem exec_macUpdate {s : State} {D : List Byte} (hc : s.macUpdateCheck = none) (hD : s.readT = some D) :
    exec .macUpdate s = .next ({ s with mac := macAbsorb s.mac D }.complete .ok) := by
  simp only [exec, execMacUpdate, hc, hD]

theorem exec_macUpdate_unreadable {s : State} (hc : s.macUpdateCheck = none) (hD : s.readT = none) :
    exec .macUpdate s = .fault .unwrittenCommandRead := by
  simp only [exec, execMacUpdate, hc, hD]

theorem macUpdateCheck_noSession {s : State} (h : s.mac.st ≠ .active) : s.macUpdateCheck = some .eMacState := if_pos h

theorem macUpdateCheck_badRegion {s : State} (hst : s.mac.st = .active)
    (hr : s.tPtr.toNat + s.tLen.toNat > s.cfg.dmemBytes) : s.macUpdateCheck = some .eRange := by
  have hbad : s.regionValid s.tPtr s.tLen = false := decide_eq_false (Nat.not_le.mpr hr)
  rw [State.macUpdateCheck, if_neg (not_not.mpr hst), if_pos hbad]

theorem macUpdateCheck_passed {s : State} (hst : s.mac.st = .active)
    (hr : s.tPtr.toNat + s.tLen.toNat ≤ s.cfg.dmemBytes) : s.macUpdateCheck = none :=
  (macUpdateCheck_eq_none_iff s).mpr ⟨hst, (regionValid_iff s _ _).mpr hr⟩

/-- A buffer that is zero past BUFLEN is the store of its valid bytes (41_mac.md R157). -/
theorem bytesStore_pending {m : MacState} (h : MacInv m) : bytesStore 15 m.pending = m.buf := by
  refine Vector.ext fun i hi => ?_
  obtain hvalid | htail := Nat.lt_or_ge i m.bufLen.val
  · simp [bytesStore, MacState.pending, List.getElem?_take_of_lt hvalid, hi]
  · have hend : m.pending.length ≤ i := by rwa [pending_length]
    exact (bytesStore_past_end ⟨i, hi⟩ hend).trans (h.tailZero ⟨i, hi⟩ htail).symm

/-- Absorbing nothing changes nothing, for BUF is zero past BUFLEN (41_mac.md R157). -/
theorem macAbsorb_nil {m : MacState} (h : MacInv m) : macAbsorb m [] = m := by
  have hfew : m.pending.length / 16 = 0 := by
    rw [pending_length]
    exact Nat.div_eq_of_lt m.bufLen.isLt
  refine macState_ext ?_ rfl rfl ?_ ?_ rfl
  · rw [macAbsorb_acc, List.append_nil, hfew, absorbBlocks]
  · rw [macAbsorb_buf, List.append_nil, hfew, Nat.mul_zero, List.drop_zero, bytesStore_pending h]
  · rw [macAbsorb_bufLen, List.length_nil]
    exact Nat.mod_eq_of_lt m.bufLen.isLt

/-- Settles O22, check by check; an empty region reads as the empty string, and absorbing that changes
nothing (`macAbsorb_nil`). -/
theorem macUpdateAbsorbsText : Obligations.MacUpdateAbsorbsText := by
  refine ⟨decode_encode .macUpdate, fun s hst => ⟨_, exec_macUpdate_failed (macUpdateCheck_noSession hst), rfl⟩,
    fun s hst hr => ⟨_, exec_macUpdate_failed (macUpdateCheck_badRegion hst hr), rfl⟩,
    fun s D hst hr hD => ⟨_, exec_macUpdate (macUpdateCheck_passed hst hr) hD, macAbsorb_bufLen s.mac D, rfl⟩,
    fun s hst hr hD => exec_macUpdate_unreadable (macUpdateCheck_passed hst hr) hD, fun s hinv hst hlen hr => ?_⟩
  obtain ⟨-, -, -, -, hmac⟩ := (coreInv_iff s).mp hinv
  have hzero : s.tLen.toNat = 0 := by rw [hlen]; rfl
  have hread : s.readT = some [] := by
    rw [State.readT, hzero]
    rfl
  refine ⟨_, exec_macUpdate (macUpdateCheck_passed hst (by omega)) hread, ?_⟩
  rw [macAbsorb_nil hmac]
  rfl

/-- A MAC_UPDATE that ends with code 0 has passed its checks and absorbed its region. -/
theorem macUpdate_of_ok {s t : State} (h : exec .macUpdate s = .next t) (hok : t.err = .ok) :
    s.mac.st = .active ∧ s.tPtr.toNat + s.tLen.toNat ≤ s.cfg.dmemBytes ∧
      ∃ D, s.readT = some D ∧ t = { s with mac := macAbsorb s.mac D }.complete .ok := by
  obtain ⟨c, hc, rfl⟩ | ⟨hc, D, hD, rfl⟩ := execMacUpdate_next h
  · obtain rfl : c = .ok := hok
    obtain hbad | hbad := macUpdateCheck_code hc <;> cases hbad
  · obtain ⟨hst, hr⟩ := (macUpdateCheck_eq_none_iff s).mp hc
    exact ⟨hst, (regionValid_iff s _ _).mp hr, D, hD, rfl⟩

/-- Settles O24: the two regions read as one, in range and without wrap, and absorbing them is absorbing their union. -/
theorem twoMacUpdatesAreOne : Obligations.TwoMacUpdatesAreOne := by
  intro s t1 t2 P L1 L2 hcfg h1 hok1 h2 hok2
  obtain ⟨-, -, hmax, -⟩ := hcfg
  obtain ⟨hst, hr1, D1, hD1, rfl⟩ := macUpdate_of_ok h1 hok1
  obtain ⟨-, hr2, D2, hD2, rfl⟩ := macUpdate_of_ok h2 hok2
  replace hr1 : P.toNat + L1.toNat ≤ s.cfg.dmemBytes := hr1
  replace hr2 : (P + L1).toNat + L2.toNat ≤ s.cfg.dmemBytes := hr2
  have hsecond : (P + L1).toNat = P.toNat + L1.toNat := by
    rw [BitVec.toNat_add]
    omega
  have hunion : (L1 + L2).toNat = L1.toNat + L2.toNat := by
    rw [BitVec.toNat_add]
    omega
  have hread : State.readT { s with tPtr := P, tLen := L1 + L2 } = some (D1 ++ D2) := by
    show s.dmem.read P.toNat (L1 + L2).toNat = _
    rw [hunion]
    exact read_append hD1 (hsecond ▸ hD2)
  have hcheck : State.macUpdateCheck { s with tPtr := P, tLen := L1 + L2 } = none :=
    macUpdateCheck_passed hst (show P.toNat + (L1 + L2).toNat ≤ s.cfg.dmemBytes by omega)
  exact ⟨_, exec_macUpdate hcheck hread, rfl, (macAbsorb_append s.mac D1 D2).symm⟩

/-! MAC_FINAL (41_mac.md R160, R167). -/

theorem exec_macFinal_failed {s : State} (hst : s.mac.st ≠ .active) :
    exec .macFinal s = .next (s.complete .eMacState) := by
  simp only [exec, execMacFinal, State.macFinalCheck, if_pos hst, raiseCmdError_eq_complete]

theorem exec_macFinal {s : State} (hst : s.mac.st = .active) :
    exec .macFinal s = .next (({ s.setTag s.mac.finalTag with mac := .zeroized .finalized }).complete .ok) := by
  simp only [exec, execMacFinal, (macFinalCheck_eq_none_iff s).mpr hst]

/-- The pad as bytes is SP (41_mac.md R152). -/
theorem leBytes_sv (m : MacState) : leBytes 16 m.sv = wordsBytes m.sp.toList := by
  have hwords : m.sp.toList = [m.sp[0], m.sp[1], m.sp[2], m.sp[3]] := by
    refine List.ext_getElem (by simp) fun i hi _ => ?_
    rw [Vector.length_toList] at hi
    interval_cases i <;> simp
  rw [hwords, MacState.sv, ← wordBytes_append4]
  simp [wordsBytes]

theorem sv_lt (m : MacState) : m.sv < 2 ^ 128 := by
  rw [MacState.sv]
  omega

/-- With nothing absorbed the tag is the pad (41_mac.md R160). -/
theorem finalTag_macInit {OTK : List Byte} (h : OTK.length = 32) : (macInit OTK).finalTag = OTK.drop 16 := by
  have hpad : (OTK.drop 16).length = 4 * 4 := by simp [h]
  have hacc : (macInit OTK).finalAcc.val = 0 := rfl
  rw [MacState.finalTag, hacc, Nat.zero_add, Nat.mod_eq_of_lt (sv_lt _), leBytes_sv, macInit_sp h,
    wordsBytes_bytesWords 4 _ hpad]

/-- The value of a partial block has its 0x01 past its last byte (41_mac.md R156). -/
theorem blockValue_partialBlock (m : List Byte) : blockValue m .partialBlock = leNat m + 2 ^ (8 * m.length) := by
  rw [blockValue, leNat_append, leNat, leNat_zeros, Nat.pow_mul]
  norm_num

/-- Settles O26: MAC_FINAL by its check, the tag by the cases of the last block; who writes TAG says
`commandsKeepOperandRegisters`. -/
theorem macFinalWritesTag : Obligations.MacFinalWritesTag := by
  refine ⟨decode_encode .macFinal, fun s hst => ⟨_, exec_macFinal_failed hst, rfl⟩,
    fun s hst => ⟨_, exec_macFinal hst, fun i => ?_, ?_⟩, fun OTK => finalTag_macInit,
    fun i s t h hfinal henc hclear => ?_, fun m => ⟨rfl, fun hempty => ?_, fun hpart => ?_⟩⟩
  · rw [complete_tag, setTag_tag, getElem_bytesWords]
  · simp only [State.setTag, State.complete]
  · obtain ⟨-, htag, -⟩ := commandsKeepOperandRegisters i s t h
    exact htag hclear hfinal henc
  · rw [MacState.finalAcc, if_neg (by omega)]
  · rw [MacState.finalAcc, if_pos hpart, ← pending_length, ← blockValue_partialBlock]
    rfl

/-! The limb datapath (41_mac.md R161 to R164). -/

/-- Settles O27: adding the block loses no carry, and the multiplication is correct mod p on what it gives. -/
theorem limbBlockStepRefinesValue : Obligations.LimbBlockStepRefinesValue :=
  fun _ _ _ _ hh hr hfull hpart => limbBlock_spec hh hr hfull hpart

/-- Settles O28: the final carry makes the limbs small, and the masked select subtracts p from a value of p or more. -/
theorem limbReductionIsCanonical : Obligations.LimbReductionIsCanonical :=
  fun _ hh => reduceLimbs_spec hh

/-- Settles O29: the carries of the four word additions make them one addition. -/
theorem padAdditionInWords : Obligations.PadAdditionInWords :=
  fun _ m hh => padLimbs_eq hh m

end Sys2Proof.Machine

namespace Sys2Proof.Machine

/-! ## The AEAD orchestrator and its commands (42_aead.md R200 to R212) -/

/-! The keystream, byte by byte (42_aead.md R204). -/

/-- Byte k of the keystream: byte k mod 64 of the block of counter 1 + k/64 (42_aead.md R204). -/
def keyStreamByte (K N : List Byte) (k : Nat) : Byte :=
  (chachaBlock K (BitVec.ofNat 32 (1 + k / 64)) N).getD (k % 64) 0#8

theorem keyStreamByte_of_lt (K N : List Byte) {i : Nat} (j : Nat) (h : i < 64) :
    keyStreamByte K N (64 * j + i) = (chachaBlock K (BitVec.ofNat 32 (1 + j)) N).getD i 0#8 := by
  rw [keyStreamByte, show (64 * j + i) / 64 = j by omega, show (64 * j + i) % 64 = i by omega]

theorem getElem?_xorBytes {a k : List Byte} (h : a.length ≤ k.length) (i : Nat) :
    (xorBytes a k)[i]? = a[i]?.map (· ^^^ k.getD i 0#8) := by
  by_cases hi : i < a.length
  · have hk : i < k.length := by omega
    simp [xorBytes, hi, hk]
  · rw [List.getElem?_eq_none (by simp; omega), List.getElem?_eq_none (by omega), Option.map_none]

/-- Chunk by chunk, the first at keystream byte 64j. -/
theorem getElem?_keyStreamChunks (K N : List Byte) (n j : Nat) (D : List Byte) (h : D.length ≤ 64 * n) (i : Nat) :
    (keyStreamChunks K N n j D)[i]? = D[i]?.map (· ^^^ keyStreamByte K N (64 * j + i)) := by
  induction n generalizing i j D with
  | zero =>
    obtain rfl := List.length_eq_zero_iff.mp (Nat.le_zero.mp h)
    simp [keyStreamChunks]
  | succ n ih =>
    by_cases hD : i < D.length
    · have hblock : (D.take 64).length ≤ (chachaBlock K (BitVec.ofNat 32 (1 + j)) N).length := by simp
      have hchunk : (xorBytes (D.take 64) (chachaBlock K (BitVec.ofNat 32 (1 + j)) N)).length = min 64 D.length := by
        simp
      rw [keyStreamChunks]
      by_cases hi : i < 64
      · rw [List.getElem?_append_left (by omega), getElem?_xorBytes hblock, List.getElem?_take_of_lt hi,
          keyStreamByte_of_lt K N j hi]
      · rw [List.getElem?_append_right (by omega), hchunk, ih _ _ (by rw [List.length_drop]; omega), List.getElem?_drop,
          show 64 + (i - min 64 D.length) = i by omega,
          show 64 * (j + 1) + (i - min 64 D.length) = 64 * j + i by omega]
    · rw [List.getElem?_eq_none (by rw [keyStreamChunks_length K N _ j D h]; omega), List.getElem?_eq_none (by omega),
        Option.map_none]

/-- Every byte is xored with the keystream byte of its place (42_aead.md R204). -/
theorem getElem?_keyStreamXor (K N D : List Byte) (i : Nat) :
    (keyStreamXor K N D)[i]? = D[i]?.map (· ^^^ keyStreamByte K N i) := by
  rw [keyStreamXor, getElem?_keyStreamChunks K N _ 0 D (by omega), Nat.mul_zero, Nat.zero_add]

/-- Decryption is encryption: the keystream cancels itself. -/
@[simp] theorem keyStreamXor_keyStreamXor (K N D : List Byte) : keyStreamXor K N (keyStreamXor K N D) = D := by
  apply List.ext_getElem?
  intro i
  rw [getElem?_keyStreamXor, getElem?_keyStreamXor, Option.map_map]
  simp [Function.comp_def]

/-- Settles O34: the bytes by `getElem?_keyStreamXor`, and xoring with the same keystream byte twice changes nothing. -/
theorem keyStreamXorByByte : Obligations.KeyStreamXorByByte := by
  refine fun K N D => ⟨keyStreamXor_length K N D, fun i hi => ?_, keyStreamXor_keyStreamXor K N D⟩
  rw [List.getD_eq_getElem?_getD, getElem?_keyStreamXor, getElem?_eq_some_getD hi]
  rfl

/-! The tag of the transcript (42_aead.md R200, R205). -/

/-- Padding fills the last block (42_aead.md R200). -/
theorem add_pad16_mod (n : Nat) : (n + pad16 n) % 16 = 0 := by
  unfold pad16
  omega

/-- Absorbing the transcript piece by piece is absorbing it whole (41_mac.md R157, 42_aead.md R205). -/
theorem absorbTranscript_eq (m : MacState) (A C : List Byte) :
    absorbTranscript m A C =
      macAbsorb m (A ++ zeros (pad16 A.length) ++ C ++ zeros (pad16 C.length) ++ lengthTrailer A C) := by
  simp only [absorbTranscript, macAbsorb_append]

/-- Settles O33: the pieces of the transcript are whole blocks, so that the MAC ends with an empty buffer. -/
theorem aeadTagIsTagOfTranscript : Obligations.AeadTagIsTagOfTranscript := by
  refine fun K N A C => ⟨?_, add_pad16_mod A.length, ?_⟩
  · rw [aeadTag, oneTimeKey, absorbTranscript_eq, lengthTrailer, List.append_assoc _ (leBytes 8 A.length)]
  · have hA := add_pad16_mod A.length
    have hC := add_pad16_mod C.length
    have hzero : (macInit (oneTimeKey K N)).bufLen.val = 0 := rfl
    rw [absorbTranscript_eq, macAbsorb_bufLen, hzero]
    simp only [lengthTrailer, List.length_append, zeros_length, leBytes_length]
    omega

/-! The checks of an AEAD command (42_aead.md R201). -/

theorem aeadCheck_passed {s : State} (hA : s.aPtr.toNat + s.aLen.toNat ≤ s.cfg.dmemBytes)
    (hT : s.tPtr.toNat + s.tLen.toNat ≤ s.cfg.dmemBytes) (ho : s.regionsOverlap = false) : s.aeadCheck = none :=
  (aeadCheck_eq_none_iff s).mpr ⟨(regionValid_iff s _ _).mpr hA, (regionValid_iff s _ _).mpr hT, ho⟩

theorem exec_aead_failed {s : State} {i : Instr} {c : Code} (hi : i = .aeadEnc ∨ i = .aeadDec)
    (hc : s.aeadCheck = some c) : exec i s = .next (s.complete c) := by
  obtain rfl | rfl := hi
  · simp only [exec, execAeadEnc, hc, raiseCmdError_eq_complete]
  · simp only [exec, execAeadDec, hc, raiseCmdError_eq_complete]

/-- A failed check is never code 0. -/
theorem aeadCheck_ne_ok (s : State) : s.aeadCheck ≠ some .ok := by
  intro hc
  obtain h | h := aeadCheck_code hc <;> cases h

/-- Past the checks the two regions share no byte (42_aead.md R201). -/
theorem regions_disjoint {s : State} (hc : s.aeadCheck = none) :
    s.aLen.toNat = 0 ∨ s.tLen.toNat = 0 ∨ s.aPtr.toNat + s.aLen.toNat ≤ s.tPtr.toNat ∨
      s.tPtr.toNat + s.tLen.toNat ≤ s.aPtr.toNat := by
  obtain ⟨-, -, hover⟩ := (aeadCheck_eq_none_iff s).mp hc
  have hno := (regionsOverlap_iff s).not.mp (by simp [hover])
  omega

/-! AEAD_ENC and AEAD_DEC (42_aead.md R206, R207). -/

/-- An AEAD_ENC that ends with code 0 has passed its checks and sealed its text. -/
theorem aeadEnc_of_ok {s t : State} (h : exec .aeadEnc s = .next t) (hok : t.err = .ok) :
    s.aeadCheck = none ∧ ∃ A P, s.readA = some A ∧ s.readT = some P ∧ t = s.sealed A P := by
  obtain ⟨c, hc, rfl⟩ | hsealed := execAeadEnc_next h
  · obtain rfl : c = .ok := hok
    exact absurd hc (aeadCheck_ne_ok s)
  · exact hsealed

/-- The comparison of AEAD_DEC is an equality of tags (42_aead.md R207, 43_cteq.md R240). -/
theorem expectedTag_accepted_iff (s : State) (A C : List Byte) :
    ctEq (aeadTag s.keyBytes s.nonceBytes A C) s.tagBytes = true ↔ aeadTag s.keyBytes s.nonceBytes A C = s.tagBytes :=
  ctEq_iff_eq (by simp)

theorem exec_aeadDec_authentic {s : State} {A C : List Byte} (hc : s.aeadCheck = none) (hA : s.readA = some A)
    (hT : s.readT = some C) (htag : aeadTag s.keyBytes s.nonceBytes A C = s.tagBytes) :
    exec .aeadDec s = .next (s.opened C) := by
  rw [exec_aeadDec hc hA hT, if_pos ((expectedTag_accepted_iff s A C).mpr htag)]

theorem exec_aeadDec_forged {s : State} {A C : List Byte} (hc : s.aeadCheck = none) (hA : s.readA = some A)
    (hT : s.readT = some C) (htag : aeadTag s.keyBytes s.nonceBytes A C ≠ s.tagBytes) :
    exec .aeadDec s = .next s.rejected := by
  rw [exec_aeadDec hc hA hT, if_neg (mt (expectedTag_accepted_iff s A C).mp htag)]

/-- An AEAD_DEC that ends with code 0 has found the tag authentic. -/
theorem aeadDec_of_ok {s t : State} (h : exec .aeadDec s = .next t) (hok : t.err = .ok) :
    s.aeadCheck = none ∧ ∃ A C, s.readA = some A ∧ s.readT = some C ∧
      aeadTag s.keyBytes s.nonceBytes A C = s.tagBytes ∧ t = s.opened C := by
  obtain ⟨c, hc, rfl⟩ | ⟨hc, A, C, hA, hC, ⟨hk, rfl⟩ | ⟨-, rfl⟩⟩ := execAeadDec_next h
  · obtain rfl : c = .ok := hok
    exact absurd hc (aeadCheck_ne_ok s)
  · exact ⟨hc, A, C, hA, hC, (expectedTag_accepted_iff s A C).mp hk, rfl⟩
  · cases hok

/-- Settles O31: past the checks the answer is `sealed`, whose TAG holds the words of the tag. -/
theorem aeadEncSealsInPlace : Obligations.AeadEncSealsInPlace := by
  refine ⟨decode_encode .aeadEnc,
    fun s A P hrA hrT ho hA hP => ⟨_, exec_aeadEnc (aeadCheck_passed hrA hrT ho) hA hP, fun i => ?_, rfl⟩,
    fun s c hc => ⟨aeadCheck_code hc, _, exec_aead_failed (.inl rfl) hc, rfl⟩,
    fun s hc hr => exec_aead_unreadable (.inl rfl) hc hr⟩
  rw [sealed_tag, getElem_bytesWords]

/-- Settles O32: past the checks the answer is `opened` or `rejected`, as the expected tag equals TAG or not. -/
theorem aeadDecOpensIfAuthentic : Obligations.AeadDecOpensIfAuthentic :=
  ⟨decode_encode .aeadDec,
    fun _ _ _ hrA hrT ho hA hC => ⟨
      fun htag => ⟨_, exec_aeadDec_authentic (aeadCheck_passed hrA hrT ho) hA hC htag, rfl⟩,
      fun htag => ⟨_, exec_aeadDec_forged (aeadCheck_passed hrA hrT ho) hA hC htag, rfl⟩⟩,
    fun _ _ hc => ⟨aeadCheck_code hc, _, exec_aead_failed (.inr rfl) hc, rfl⟩,
    fun _ hc hr => exec_aead_unreadable (.inr rfl) hc hr⟩

/-! Decrypting what was encrypted (42_aead.md R212). -/

@[simp] theorem sealed_keyBytes (s : State) (A P : List Byte) : (s.sealed A P).keyBytes = s.keyBytes := rfl

@[simp] theorem sealed_nonceBytes (s : State) (A P : List Byte) : (s.sealed A P).nonceBytes = s.nonceBytes := rfl

/-- The bytes of TAG after AEAD_ENC are the tag of the ciphertext (42_aead.md R206). -/
theorem sealed_tagBytes (s : State) (A P : List Byte) : (s.sealed A P).tagBytes =
    aeadTag s.keyBytes s.nonceBytes A (keyStreamXor s.keyBytes s.nonceBytes P) := by
  rw [State.tagBytes, sealed_tag, wordsBytes_bytesWords 4 _ (aeadTag_length ..)]

/-- A text of the T region's length written back to it is what the region reads. -/
theorem readT_memWrite {s : State} {D : List Byte} (h : D.length = s.tLen.toNat) :
    (s.memWrite s.textAddr D).readT = some D := by
  have hread := read_write_same s.dmem s.textAddr D
  rwa [h] at hread

/-- A text of the T region's length written back to it leaves the A region (42_aead.md R201). -/
theorem readA_memWrite {s : State} {D : List Byte} (h : D.length = s.tLen.toNat) (hc : s.aeadCheck = none) :
    (s.memWrite s.textAddr D).readA = s.readA :=
  read_write_disjoint s.dmem s.textAddr D s.aPtr.toNat s.aLen.toNat (by
    have hdis := regions_disjoint hc
    rw [State.textAddr]
    omega)

/-- After AEAD_ENC the T region holds the ciphertext (42_aead.md R206). -/
theorem sealed_readT {s : State} {P : List Byte} (A : List Byte) (hP : s.readT = some P) :
    (s.sealed A P).readT = some (keyStreamXor s.keyBytes s.nonceBytes P) :=
  readT_memWrite ((keyStreamXor_length ..).trans (read_length hP))

theorem sealed_readA {s : State} {P : List Byte} (A : List Byte) (hc : s.aeadCheck = none) (hP : s.readT = some P) :
    (s.sealed A P).readA = s.readA :=
  readA_memWrite ((keyStreamXor_length ..).trans (read_length hP)) hc

/-- After AEAD_DEC with the authentic tag the T region holds the plaintext (42_aead.md R207). -/
theorem opened_readT {s : State} {C : List Byte} (hC : s.readT = some C) :
    (s.opened C).readT = some (keyStreamXor s.keyBytes s.nonceBytes C) :=
  readT_memWrite ((keyStreamXor_length ..).trans (read_length hC))

theorem opened_readA {s : State} {C : List Byte} (hc : s.aeadCheck = none) (hC : s.readT = some C) :
    (s.opened C).readA = s.readA :=
  readA_memWrite ((keyStreamXor_length ..).trans (read_length hC)) hc

/-- Writing back what a region held undoes a write over it. -/
theorem write_write_read {m : Memory} {a n : Nat} {B D : List Byte} (hm : m.wf) (hB : m.read a n = some B)
    (hD : D.length = n) : (m.write a D).write a B = m := by
  obtain ⟨hlen, hbyte⟩ := (read_eq_some_iff m a n B).mp hB
  refine memory_ext (wf_write (wf_write hm a D) a B) hm fun x => ?_
  by_cases hx : a ≤ x ∧ x < a + n
  · rw [byte?_write, if_pos (by omega), ← hbyte (x - a) (by omega), show a + (x - a) = x by omega]
  · rw [byte?_write_outside _ _ _ _ (by omega), byte?_write_outside _ _ _ _ (by omega)]

/-- Opening what was sealed restores a canonical DMEM (42_aead.md R212). -/
theorem opened_sealed_dmem {s : State} {P : List Byte} (A : List Byte) (hm : s.dmem.wf) (hP : s.readT = some P) :
    ((s.sealed A P).opened (keyStreamXor s.keyBytes s.nonceBytes P)).dmem = s.dmem := by
  rw [opened_dmem, sealed_keyBytes, sealed_nonceBytes, keyStreamXor_keyStreamXor]
  exact write_write_read hm hP ((keyStreamXor_length ..).trans (read_length hP))

/-- Settles O35: AEAD_DEC finds in TAG the tag of the ciphertext it reads, and the keystream cancels itself. -/
theorem encryptThenDecryptRoundTrips : Obligations.EncryptThenDecryptRoundTrips := by
  refine ⟨fun s t h hok => ?_, fun s s' t t' h hok h' hok' hkey hnonce hreadA hreadT => ?_⟩
  · obtain ⟨hc, A, P, hA, hP, rfl⟩ := aeadEnc_of_ok h hok
    have hcheck : (s.sealed A P).aeadCheck = none := hc
    have hreadA := sealed_readA A hc hP
    have hreadT := sealed_readT A hP
    refine ⟨_, exec_aeadDec_authentic hcheck (hreadA.trans hA) hreadT (sealed_tagBytes s A P).symm, rfl, rfl, ?_,
      (opened_readA hcheck hreadT).trans hreadA, fun hm => opened_sealed_dmem A hm hP⟩
    rw [opened_readT hreadT, sealed_keyBytes, sealed_nonceBytes, keyStreamXor_keyStreamXor, hP]
  · obtain ⟨-, A, P, hA, hP, rfl⟩ := aeadEnc_of_ok h hok
    obtain ⟨-, A', P', hA', hP', rfl⟩ := aeadEnc_of_ok h' hok'
    obtain rfl : A = A' := Option.some.inj (hA.symm.trans (hreadA.trans hA'))
    obtain rfl : P = P' := Option.some.inj (hP.symm.trans (hreadT.trans hP'))
    rw [sealed_tag, sealed_tag, sealed_readT A hP, sealed_readT A hP', hkey, hnonce]
    exact ⟨rfl, rfl⟩

/-! What AEAD_DEC releases, and to whom (42_aead.md R209 to R211). -/

/-- Settles O36: DMEM is written in `opened` alone, which comes of equal tags, and no case writes a
register the HOST can read but STATUS. -/
theorem decryptReleasesOnlyAuthentic : Obligations.DecryptReleasesOnlyAuthentic := by
  intro s t h
  obtain ⟨c, hc, rfl⟩ | ⟨hc, A, C, hA, hC, ⟨hk, rfl⟩ | ⟨hk, rfl⟩⟩ := execAeadDec_next h
  · exact ⟨fun hd => absurd rfl hd, fun _ => rfl, by simp⟩
  · exact ⟨fun _ => ⟨rfl, rfl, A, C, hA, hC, (expectedTag_accepted_iff s A C).mp hk⟩, fun he => absurd rfl he, by simp⟩
  · exact ⟨fun hd => absurd rfl hd, fun _ => rfl, by simp⟩

/-- Settles O37: the expected tag does not depend on TAG, so that only one TAG can equal it. -/
theorem changedTagAlwaysFails : Obligations.ChangedTagAlwaysFails := by
  intro s t T h hok hne
  obtain ⟨hc, A, C, hA, hC, htag, -⟩ := aeadDec_of_ok h hok
  refine ⟨_, exec_aeadDec_forged (s := { s with tag := T }) hc hA hC fun hT => hne ?_, rfl, rfl, rfl, rfl⟩
  exact wordsBytes_inj.mp (hT.symm.trans htag)

/-- With no session open MAC_UPDATE and MAC_FINAL fail with E_MAC_STATE (41_mac.md R166, R167). -/
theorem macCommands_fail {t : State} (hst : t.mac.st ≠ .active) :
    (∃ u, exec .macUpdate t = .next u ∧ u.err = .eMacState) ∧ ∃ u, exec .macFinal t = .next u ∧ u.err = .eMacState :=
  ⟨⟨_, exec_macUpdate_failed (macUpdateCheck_noSession hst), rfl⟩, ⟨_, exec_macFinal_failed hst, rfl⟩⟩

/-- Settles O38, effect by effect: a failed check only completes, and each of the other three effects zeroizes. -/
theorem aeadEndsDirectSession : Obligations.AeadEndsDirectSession := by
  intro i s t hi h
  cases exec_next h with
  | nop | ksBlock | macInit | macUpdateError | macUpdate | macFinalError | macFinal | ctEq | clear => simp at hi
  | aeadEncError c hc | aeadDecError c hc =>
    refine ⟨fun hend => ?_, fun _ => rfl⟩
    obtain rfl | rfl := aeadCheck_code hc <;> simp at hend
  | aeadEnc | aeadDecOpen | aeadDecReject =>
    exact ⟨fun _ => ⟨rfl, rfl, rfl, rfl, rfl, rfl, rfl, macCommands_fail (by simp)⟩, fun hfail => by simp at hfail⟩

end Sys2Proof.Machine

namespace Sys2Proof.Machine

/-! ## The constant-time equality checker (43_cteq.md R240, R241) -/

theorem xorBytes_comm (a b : List Byte) : xorBytes a b = xorBytes b a :=
  List.zipWith_comm_of_comm BitVec.xor_comm

theorem xorBytes_eq_map_range {a b : List Byte} (h : a.length = b.length) :
    xorBytes a b = (List.range a.length).map fun i => a.getD i 0#8 ^^^ b.getD i 0#8 := by
  apply List.ext_getElem?
  intro i
  rw [getElem?_xorBytes h.le, List.getElem?_map]
  by_cases hi : i < a.length
  · simp [hi]
  · simp [Nat.le_of_not_lt hi]

/-- The accumulator is the loop of 43_cteq.md R240 over the byte indices. -/
theorem ctEqAcc_eq_foldl_range {a b : List Byte} (h : a.length = b.length) :
    ctEqAcc a b = (List.range a.length).foldl (fun acc i => acc ||| (a.getD i 0#8 ^^^ b.getD i 0#8)) 0#8 := by
  rw [ctEqAcc, xorBytes_eq_map_range h, List.foldl_map]

theorem ctEq_iff_acc_eq_zero (a b : List Byte) : ctEq a b = true ↔ ctEqAcc a b = 0#8 :=
  beq_iff_eq

theorem ctEq_comm (a b : List Byte) : ctEq a b = ctEq b a := by
  rw [ctEq, ctEq, ctEqAcc, ctEqAcc, xorBytes_comm]

/-- Settles O14: the loop by `ctEqAcc_eq_foldl_range`, and a running or is zero only if no byte differs. -/
theorem ctEqIffEqual : Obligations.CtEqIffEqual := by
  intro a b ha hb
  have hlen : a.length = b.length := ha.trans hb.symm
  have hloop := ctEqAcc_eq_foldl_range hlen
  rw [ha] at hloop
  exact ⟨hloop, ctEq_iff_acc_eq_zero a b, ctEq_iff_eq hlen, ctEq_comm a b⟩

theorem exec_ctEq (s : State) : exec .ctEq s = .next ((s.setEq (ctEq s.tagBytes s.tagxBytes)).complete .ok) := rfl

/-- Settles O13: TAG and TAGX are 16 bytes each, and no field is written but EQ and those of the completion. -/
theorem ctEqSetsEq : Obligations.CtEqSetsEq := by
  refine ⟨decode_encode .ctEq, fun s => ⟨_, exec_ctEq s, ?_, rfl⟩⟩
  rw [complete_eq, setEq_eq]
  exact ctEq_iff_eq (by simp)

end Sys2Proof.Machine

namespace Sys2Proof.Machine

/-! ## NOP and CLEAR (44_control.md R260, R261) -/

theorem exec_nop (s : State) : exec .nop s = .next (s.complete .ok) := rfl

theorem exec_clear (s : State) : exec .clear s = .next (s.clearRegisters.complete .ok) := rfl

/-- Settles O11: the CMD write of NOP's word is an issue, as of any word, and its effect is the completion alone. -/
theorem nopOnlyCompletes : Obligations.NopOnlyCompletes :=
  ⟨decode_encode .nop, fun _ _ hc hb hx => ⟨_, step_issue hc hb hx, rfl⟩, fun s => ⟨_, exec_nop s, rfl⟩⟩

/-- Settles O12: each field that is neither the HOST's (CTRL, HAZ, DMEM) nor the model's own is put at its reset value by
`State.clearRegisters` or, if it is BUSY, ERR or PEND, by the completion, which also sets DONE. -/
theorem clearZeroizes : Obligations.ClearZeroizes :=
  ⟨decode_encode .clear, fun s => ⟨_, exec_clear s, rfl⟩⟩

end Sys2Proof.Machine

namespace Sys2Proof.Machine

/-! ## Issue, completion, status codes and bus errors (60_exceptions.md R280 to R286; 70_reset_and_hazards.md R328, R329) -/

/-! Inputs while a command runs. -/

/-- What t has of the command in progress is what s has of it: BUSY, the delay, the word and the status code, which is written
at completion (60_exceptions.md R281, R282). -/
structure CommandKept (s t : State) : Prop where
  busy : t.busy = s.busy
  delay : t.delay = s.delay
  pend : t.pend = s.pend
  err : t.err = s.err

/-- A write of a location that never locks does not reach the command (70_reset_and_hazards.md R327). -/
theorem writeLoc_commandKept {l : Loc} (hl : l.locked = false) (s : State) (v : Word) : CommandKept s (s.writeLoc l v) := by
  cases l with
  | id | ctrl | status | reserved => exact ⟨rfl, rfl, rfl, rfl⟩
  | cmd | aPtr | aLen | tPtr | tLen | key | nonce | counter | tag | tagx | ks | dmem => exact Bool.noConfusion hl

/-- What a CORE that runs a command leaves unlocked never locks (70_reset_and_hazards.md R326, R327). -/
theorem locked_of_isLocked_busy {s : State} {l : Loc} (hb : s.busy = true) (hu : s.isLocked l = false) :
    l.locked = false := by
  rwa [State.isLocked, hb, Bool.true_and] at hu

/-- While a command runs every input but reset leaves it as it is (70_reset_and_hazards.md R326 to R328, R333). -/
theorem perform_busy {s t : State} {x : HostInput} (hb : s.busy = true) (hx : s.perform x = .next t) :
    CommandKept s t ∨ t = s.resetNow := by
  obtain ⟨off, -, -, hr⟩ | ⟨off, v, -, -, hw⟩ | ⟨-, rfl⟩ | ⟨-, rfl⟩ := perform_next hx
  · obtain ⟨-, rfl⟩ | ⟨-, v, -, rfl⟩ := hostRead_next hr
    · exact .inl ⟨rfl, rfl, rfl, rfl⟩
    · exact .inl ⟨rfl, rfl, rfl, rfl⟩
  · obtain ⟨-, rfl⟩ | ⟨hu, rfl⟩ := hostWrite_next hw
    · exact .inl ⟨rfl, rfl, rfl, rfl⟩
    · exact .inl (writeLoc_commandKept (locked_of_isLocked_busy hb hu) s v)
  · rw [if_pos hb]
    exact .inl ⟨rfl, rfl, rfl, rfl⟩
  · exact .inr rfl

/-! Completion (60_exceptions.md R281, R282). -/

/-- Every effect of a command ends with its completion (60_exceptions.md R282). -/
theorem Effect.completes {s t : State} {i : Instr} (he : Effect s i t) :
    t.busy = false ∧ t.done = true ∧ t.pend = 0#32 ∧ t.delay = 0 := by
  cases he with
  | nop | ksBlock | macInit | macUpdateError | macUpdate | macFinalError | macFinal | aeadEncError | aeadEnc
  | aeadDecError | aeadDecOpen | aeadDecReject | ctEq | clear => exact ⟨rfl, rfl, rfl, rfl⟩

/-- Commands run beside the control registers and what comes from outside: CTRL, HAZ, the parameters, the inputs still to come,
the schedule and the record of reads (10_state.md R26, R32; logs 1 to 3). -/
theorem Effect.keeps_outside {s t : State} {i : Instr} (he : Effect s i t) :
    t.ie = s.ie ∧ t.haz = s.haz ∧ t.cfg = s.cfg ∧ t.inbox = s.inbox ∧ t.lats = s.lats ∧ t.readLog = s.readLog := by
  cases he with
  | ksBlock | macFinal => simp
  | nop | macInit | macUpdateError | macUpdate | macFinalError | aeadEncError | aeadEnc | aeadDecError | aeadDecOpen
  | aeadDecReject | ctEq | clear => exact ⟨rfl, rfl, rfl, rfl, rfl, rfl⟩

/-- Settles O7: completion and frame of every effect; IRQ is CTRL.IE once DONE is set. -/
theorem everyCommandCompletes : Obligations.EveryCommandCompletes := by
  intro i s t h
  have he := exec_next h
  obtain ⟨hbusy, hdone, hpend, hdelay⟩ := he.completes
  obtain ⟨hie, hframe⟩ := he.keeps_outside
  have hirq : t.irq = s.ie := by rw [State.irq, hdone, Bool.and_true, hie]
  exact ⟨hbusy, hdone, hpend, hdelay, hirq, hie, hframe⟩

/-- A step on SEQ's turn completes the command in progress, be its word legal or not (60_exceptions.md R282, 30_encoding.md
R94). -/
theorem step_completes {s t : State} (hs : s.seqTurn = true) (h : step s = .next t) :
    t.busy = false ∧ t.done = true ∧ t.pend = 0#32 ∧ t.delay = 0 := by
  obtain ⟨-, i, -, hi⟩ | ⟨-, -, rfl⟩ | ⟨hh, -⟩ | ⟨hh, -⟩ := step_next h
  · exact (exec_next hi).completes
  · exact ⟨rfl, rfl, rfl, rfl⟩
  · simp [hs] at hh
  · simp [hs] at hh

/-- On the HOST's turn a step with a command in progress takes one input, which leaves the command as it is or is reset. -/
theorem step_busy {s t : State} (hb : s.busy = true) (hs : s.seqTurn = false) (h : step s = .next t) :
    ∃ rest, CommandKept (s.takeInput rest) t ∨ t = (s.takeInput rest).resetNow := by
  obtain ⟨hq, -⟩ | ⟨hq, -⟩ | ⟨-, hempty, -⟩ | ⟨-, x, rest, -, hx⟩ := step_next h
  · simp [hs] at hq
  · simp [hs] at hq
  · exact absurd ((seqTurn_iff s).mpr ⟨hb, .inr hempty⟩) (by simp [hs])
  · exact ⟨rest, perform_busy hb hx⟩

/-- Settles O6: SEQ's turn completes the command, an input on the HOST's turn leaves it and counts the delay down, reset ends
it. -/
theorem busyCommandComesNearer : Obligations.BusyCommandComesNearer := by
  intro s t hb h
  by_cases hs : s.seqTurn = true
  · obtain ⟨hbusy, hdone, hpend, hdelay⟩ := step_completes hs h
    exact ⟨fun _ => ⟨hbusy, hdone⟩, fun hrun => by simp [hbusy] at hrun, fun _ => ⟨hdelay, hpend⟩⟩
  · have hdelay : s.delay ≠ 0 := fun hz => hs ((seqTurn_iff s).mpr ⟨hb, .inl hz⟩)
    refine ⟨fun hz => absurd hz hdelay, ?_⟩
    obtain ⟨rest, hkept | rfl⟩ := step_busy hb (by simpa using hs) h
    · have hrun : t.busy = true := hkept.busy.trans hb
      have hless : t.delay = s.delay - 1 := hkept.delay
      exact ⟨fun _ => ⟨by omega, hkept.pend, hkept.err⟩, fun hidle => by simp [hrun] at hidle⟩
    · exact ⟨fun hrun => Bool.noConfusion hrun, fun _ => ⟨rfl, rfl⟩⟩

/-! Status codes (60_exceptions.md R283 to R285). -/

/-- Settles O8: the codes of a failed check are those of that check, and each other effect names its code. -/
theorem statusCodesOfCommands : Obligations.StatusCodesOfCommands := by
  refine ⟨fun i s t h => ?_, by decide⟩
  cases exec_next h with
  | nop | ksBlock | macInit | macUpdate | macFinal | aeadEnc | aeadDecOpen | aeadDecReject | ctEq | clear => simp
  | macUpdateError c hc => obtain rfl | rfl := macUpdateCheck_code hc <;> simp
  | macFinalError c hc => simp [macFinalCheck_code hc]
  | aeadEncError c hc | aeadDecError c hc => obtain rfl | rfl := aeadCheck_code hc <;> simp

/-- A command that ends with a precondition error has only completed (60_exceptions.md R284). -/
theorem Effect.eq_complete_of_precondition_error {s t : State} {i : Instr} (he : Effect s i t) (hok : t.err ≠ .ok)
    (hauth : t.err ≠ .eAuth) : t = s.complete t.err := by
  cases he with
  | macUpdateError | macFinalError | aeadEncError | aeadDecError => rfl
  | nop | ksBlock | macInit | macUpdate | macFinal | aeadEnc | aeadDecOpen | ctEq | clear => exact absurd rfl hok
  | aeadDecReject => exact absurd rfl hauth

/-- E_AUTH comes of one effect alone: an AEAD_DEC past its checks that found the tag not authentic (42_aead.md R207). -/
theorem Effect.rejected_of_eAuth {s t : State} {i : Instr} (he : Effect s i t) (hauth : t.err = .eAuth) :
    i = .aeadDec ∧ s.aeadCheck = none ∧ t = s.rejected := by
  cases he with
  | aeadDecReject A C hc _ _ _ => exact ⟨rfl, hc, rfl⟩
  | macUpdateError c hc => obtain rfl | rfl := macUpdateCheck_code hc <;> cases hauth
  | macFinalError c hc => obtain rfl := macFinalCheck_code hc; cases hauth
  | aeadEncError c hc | aeadDecError c hc => obtain rfl | rfl := aeadCheck_code hc <;> cases hauth
  | nop | ksBlock | macInit | macUpdate | macFinal | aeadEnc | aeadDecOpen | ctEq | clear => cases hauth

/-- Settles O9: codes 1 to 4 come of a failed check, which only completes, and E_AUTH of `rejected`, which zeroizes. -/
theorem preconditionErrorsChangeNothingElse : Obligations.PreconditionErrorsChangeNothingElse := by
  refine ⟨fun i s t h hcode => ?_, fun s => ⟨_, rfl, rfl⟩, fun s t h hauth => ?_⟩
  · have hpre := (exec_next h).eq_complete_of_precondition_error (fun hok => by simp [hok] at hcode)
      (fun hauth => by simp [hauth] at hcode)
    rw [hpre]
    rfl
  · obtain ⟨-, -, rfl⟩ := (exec_next h).rejected_of_eAuth hauth
    exact ⟨rfl, rfl, rfl, rfl⟩

/-- The first check of an AEAD command: its A region (42_aead.md R201). -/
theorem aeadCheck_badA {s : State} (hA : s.aPtr.toNat + s.aLen.toNat > s.cfg.dmemBytes) : s.aeadCheck = some .eRange := by
  have hbad : s.regionValid s.aPtr s.aLen = false := decide_eq_false (Nat.not_le.mpr hA)
  rw [State.aeadCheck, if_pos hbad]

/-- The second check: its T region (42_aead.md R201). -/
theorem aeadCheck_badT {s : State} (hA : s.aPtr.toNat + s.aLen.toNat ≤ s.cfg.dmemBytes)
    (hT : s.tPtr.toNat + s.tLen.toNat > s.cfg.dmemBytes) : s.aeadCheck = some .eRange := by
  have hgood : s.regionValid s.aPtr s.aLen = true := (regionValid_iff s _ _).mpr hA
  have hbad : s.regionValid s.tPtr s.tLen = false := decide_eq_false (Nat.not_le.mpr hT)
  rw [State.aeadCheck, if_neg (by simp [hgood]), if_pos hbad]

/-- The third check: a byte that the two regions share (42_aead.md R201). -/
theorem aeadCheck_overlap {s : State} (hA : s.aPtr.toNat + s.aLen.toNat ≤ s.cfg.dmemBytes)
    (hT : s.tPtr.toNat + s.tLen.toNat ≤ s.cfg.dmemBytes) (ho : s.regionsOverlap = true) :
    s.aeadCheck = some .eOverlap := by
  have hgoodA : s.regionValid s.aPtr s.aLen = true := (regionValid_iff s _ _).mpr hA
  have hgoodT : s.regionValid s.tPtr s.tLen = true := (regionValid_iff s _ _).mpr hT
  rw [State.aeadCheck, if_neg (by simp [hgoodA]), if_neg (by simp [hgoodT]), if_pos ho]

/-- Settles O10: each clause names the first check that fails, whose code is the command's; E_AUTH by
`Effect.rejected_of_eAuth`. -/
theorem firstFailingCheckDecides : Obligations.FirstFailingCheckDecides := by
  refine ⟨?_, fun s hst => ⟨_, exec_macUpdate_failed (macUpdateCheck_noSession hst), rfl⟩,
    fun s hst hr => ⟨_, exec_macUpdate_failed (macUpdateCheck_badRegion hst hr), rfl⟩,
    fun s hst => ⟨_, exec_macFinal_failed hst, rfl⟩, fun i s hi => ⟨?_, ?_, ?_⟩, fun i s t h hauth => ?_⟩
  · rintro s hs ⟨r, hr⟩
    exact ⟨_, step_illegal hs hr, rfl⟩
  · exact fun hA => ⟨_, exec_aead_failed hi (aeadCheck_badA hA), rfl⟩
  · exact fun hA hT => ⟨_, exec_aead_failed hi (aeadCheck_badT hA hT), rfl⟩
  · intro hA hT hAne hTne hAT hTA
    have ho := (regionsOverlap_iff s).mpr ⟨hAne, hTne, hAT, hTA⟩
    exact ⟨_, exec_aead_failed hi (aeadCheck_overlap hA hT ho), rfl⟩
  · obtain ⟨rfl, hc, -⟩ := (exec_next h).rejected_of_eAuth hauth
    obtain ⟨hA, hT, -⟩ := (aeadCheck_eq_none_iff s).mp hc
    have hdisj := regions_disjoint hc
    exact ⟨rfl, (regionValid_iff s _ _).mp hA, (regionValid_iff s _ _).mp hT, by omega⟩

/-! SEQ's turn (60_exceptions.md R281; logs 3 and 12). -/

/-- A placed command is SEQ's turn (log 12). -/
@[simp] theorem seqTurn_withFetchWord (s : State) (nbits w : Nat) : (s.withFetchWord nbits w).seqTurn = true := rfl

/-- A placed command word is the one that is run (log 12). -/
theorem pend_withFetchWord (s : State) (w : Word) : (s.withFetchWord 32 w.toNat).pend = w := by
  rw [State.withFetchWord, placeCommand_pend, Nat.mod_eq_of_lt w.isLt, BitVec.ofNat_toNat, BitVec.setWidth_eq]

/-- Settles O4, by the step on SEQ's turn; a placed word is decoded as it was encoded. -/
theorem stepRunsDecodedCommand : Obligations.StepRunsDecodedCommand := by
  refine ⟨fun s i hs hi => step_command hs hi, fun s i => step_command (seqTurn_withFetchWord s _ _) ?_, seqTurn_iff⟩
  rw [pend_withFetchWord, decode_encode]

/-! CMD writes and bus errors (60_exceptions.md R280, R286). -/

/-- A CMD write while a command runs is dropped and sets HAZ (70_reset_and_hazards.md R328). -/
theorem step_cmd_dropped {s : State} {v : Word} {rest : List HostInput} (hc : s.cfg.WF) (hb : s.busy = true)
    (hs : s.seqTurn = false) (hx : s.inbox = .bus (.write 0x00C#32 32 v) :: rest) :
    step s = .next (s.takeInput rest).setHaz := by
  have hspace : (0x00C#32).toNat < 2 ^ s.cfg.addrW := inSpace hc (Nat.lt_add_right _ (by decide))
  have hlocked : (s.takeInput rest).isLocked .cmd = true := by rw [State.isLocked, takeInput_busy, hb]; rfl
  exact (step_write hs hx (by decide) hspace).trans (hostWrite_locked rfl hlocked)

/-- Settles O5: an idle CORE issues the word, which clears DONE and with it IRQ; a busy one finds CMD locked. -/
theorem cmdWriteIssuesOrIsDropped : Obligations.CmdWriteIssuesOrIsDropped :=
  ⟨fun _ _ _ hc hb hx => ⟨_, step_issue hc hb hx, by simp [State.irq], rfl⟩,
    fun _ _ _ hc hb hs hx => ⟨_, step_cmd_dropped hc hb hs hx, rfl⟩⟩

/-- A misaligned or narrow transaction, before anything else is looked at (60_exceptions.md R286; log 10). -/
theorem transact_misaligned {s : State} {x : Transaction} (h : ¬ x.Aligned32) : s.transact x = .fault .busError :=
  if_pos h

/-- Settles O49: alignment and size are what `State.transact` checks first. -/
theorem misalignedTransactionsFault : Obligations.MisalignedTransactionsFault := by
  intro s x rest hs hx hbad
  have hnot : ¬ x.Aligned32 := by
    rintro ⟨ha, hsize⟩
    exact hbad.elim (absurd ha) (absurd hsize)
  exact (step_input hs hx).trans (transact_misaligned hnot)

end Sys2Proof.Machine

namespace Sys2Proof.Machine

/-! ## Reset, the lock and the schedule (70_reset_and_hazards.md R320 to R333) -/

/-! The lock while a command runs (R326, R327). -/

/-- Settles O43: the offset names a locked location by `locOf_locked_iff`, and the lock decides both transactions. -/
theorem lockedWhileBusy : Obligations.LockedWhileBusy := by
  refine ⟨fun s off rest hc hb hs ha hoff => ?_, fun s l hb => isLocked_idle hb l⟩
  have hspace : off.toNat < 2 ^ s.cfg.addrW := inSpace hc (by omega)
  have hlocks : (locOf s.cfg off.toNat).locked = true := (locOf_locked_iff s.cfg off.toNat).mpr (by omega)
  have hk : (s.takeInput rest).isLocked (locOf s.cfg off.toNat) = true := by
    rw [State.isLocked, takeInput_busy, hb, hlocks, Bool.true_and]
  exact ⟨fun hx => ⟨_, (step_read hs hx ha hspace).trans (hostRead_locked rfl hk), rfl⟩,
    fun v hx => ⟨_, (step_write hs hx ha hspace).trans (hostWrite_locked rfl hk), rfl⟩⟩

/-- A location that never locks is unlocked in every state (R327). -/
theorem isLocked_neverLocks {l : Loc} (hl : l.locked = false) (s : State) : s.isLocked l = false := by
  rw [State.isLocked, hl, Bool.and_false]

/-- A read of a register that never locks returns its value, whether or not a command runs (R327). -/
theorem step_read_neverLocks {s : State} {off v : Word} {l : Loc} {rest : List HostInput} (hc : s.cfg.WF)
    (hs : s.seqTurn = false) (hx : s.inbox = .bus (.read off 32) :: rest) (ha : off.toNat % 4 = 0)
    (hr : off.toNat < 0x1000) (hl : locOf s.cfg off.toNat = l) (hn : l.locked = false)
    (hv : (s.takeInput rest).readLoc l = some v) : step s = .next ((s.takeInput rest).noteRead off v) :=
  (step_read hs hx ha (inSpace hc (by omega))).trans (hostRead_unlocked hl (isLocked_neverLocks hn _) hv)

/-- A write of a register that never locks reaches it, whether or not a command runs (R327). -/
theorem step_write_neverLocks {s : State} {off v : Word} {l : Loc} {rest : List HostInput} (hc : s.cfg.WF)
    (hs : s.seqTurn = false) (hx : s.inbox = .bus (.write off 32 v) :: rest) (ha : off.toNat % 4 = 0)
    (hr : off.toNat < 0x1000) (hl : locOf s.cfg off.toNat = l) (hn : l.locked = false) :
    step s = .next ((s.takeInput rest).writeLoc l v) :=
  (step_write hs hx ha (inSpace hc (by omega))).trans (hostWrite_unlocked hl (isLocked_neverLocks hn _))

/-- CTRL reads as its only bit, IE (10_state.md R26). -/
theorem ctrlWord_eq (s : State) : s.ctrlWord = if s.ie then 1#32 else 0#32 := by
  rw [State.ctrlWord]
  cases s.ie <;> rfl

/-- Settles O44: offsets 0x000, 0x004 and 0x008 name ID, CTRL and STATUS, which never lock. -/
theorem controlRegistersNeverLock : Obligations.ControlRegistersNeverLock := by
  intro s rest v hc hs
  refine ⟨fun hx => ?_, fun hx => ?_, fun hx => ?_, fun hx => ?_, fun hx => ?_, fun hx => ?_⟩
  · exact step_read_neverLocks (l := .id) hc hs hx (by decide) (by decide) rfl rfl rfl
  · exact step_write_neverLocks (l := .id) hc hs hx (by decide) (by decide) rfl rfl
  · exact step_read_neverLocks (l := .ctrl) hc hs hx (by decide) (by decide) rfl rfl
      (congrArg some (ctrlWord_eq (s.takeInput rest)))
  · exact step_write_neverLocks (l := .ctrl) hc hs hx (by decide) (by decide) rfl rfl
  · exact step_read_neverLocks (l := .status) hc hs hx (by decide) (by decide) rfl rfl rfl
  · exact step_write_neverLocks (l := .status) hc hs hx (by decide) (by decide) rfl rfl

/-! What the HOST sees of a command in progress: on the HOST's turn of a busy CORE, the step and the wiping of the locked state
commute (R326, R327). -/

/-- No location that never locks shows any of the locked state. -/
theorem readLoc_hideLocked {l : Loc} (hl : l.locked = false) (s : State) : s.hideLocked.readLoc l = s.readLoc l := by
  cases l with
  | id | ctrl | status | reserved => rfl
  | cmd | aPtr | aLen | tPtr | tLen | key | nonce | counter | tag | tagx | ks | dmem => exact Bool.noConfusion hl

theorem writeLoc_hideLocked {l : Loc} (hl : l.locked = false) (s : State) (v : Word) :
    s.hideLocked.writeLoc l v = (s.writeLoc l v).hideLocked := by
  cases l with
  | id | ctrl | status | reserved => rfl
  | cmd | aPtr | aLen | tPtr | tLen | key | nonce | counter | tag | tagx | ks | dmem => exact Bool.noConfusion hl

section
variable {s : State} (hb : s.busy = true)
include hb

theorem hostRead_hideLocked (off : Word) : s.hideLocked.hostRead off = viewed State.hideLocked (s.hostRead off) := by
  generalize hl : locOf s.cfg off.toNat = l
  cases hk : s.isLocked l with
  | true => rw [hostRead_locked hl hk, hostRead_locked (s := s.hideLocked) hl hk]; rfl
  | false =>
    have hread := readLoc_hideLocked (locked_of_isLocked_busy hb hk) s
    cases hv : s.readLoc l with
    | some v => rw [hostRead_unlocked hl hk hv, hostRead_unlocked (s := s.hideLocked) hl hk (hread.trans hv)]; rfl
    | none => rw [hostRead_noValue hl hk hv, hostRead_noValue (s := s.hideLocked) hl hk (hread.trans hv)]; rfl

theorem hostWrite_hideLocked (off v : Word) :
    s.hideLocked.hostWrite off v = viewed State.hideLocked (s.hostWrite off v) := by
  generalize hl : locOf s.cfg off.toNat = l
  cases hk : s.isLocked l with
  | true => rw [hostWrite_locked hl hk, hostWrite_locked (s := s.hideLocked) hl hk]; rfl
  | false =>
    rw [hostWrite_unlocked hl hk, hostWrite_unlocked (s := s.hideLocked) hl hk]
    exact congrArg Host.Outcome.next (writeLoc_hideLocked (locked_of_isLocked_busy hb hk) s v)

theorem transact_hideLocked (x : Transaction) : s.hideLocked.transact x = viewed State.hideLocked (s.transact x) := by
  by_cases ha : x.Aligned32
  · by_cases hr : x.off.toNat < 2 ^ s.cfg.addrW
    · obtain ⟨halign, hsize⟩ := ha
      cases x with
      | read off size =>
        obtain rfl : size = 32 := hsize
        rw [transact_read (off := off) halign hr, transact_read (off := off) (s := s.hideLocked) halign hr]
        exact hostRead_hideLocked hb off
      | write off size v =>
        obtain rfl : size = 32 := hsize
        rw [transact_write (off := off) halign hr, transact_write (off := off) (s := s.hideLocked) halign hr]
        exact hostWrite_hideLocked hb off v
    · have hout : 2 ^ s.cfg.addrW ≤ x.off.toNat := Nat.le_of_not_lt hr
      rw [transact_outside ha hout, transact_outside (s := s.hideLocked) ha hout]
      rfl
  · rw [transact_misaligned ha, transact_misaligned ha]
    rfl

/-- The reset input included: it leaves the locked state as if wiped (R321 to R323). -/
theorem perform_hideLocked (x : HostInput) : s.hideLocked.perform x = viewed State.hideLocked (s.perform x) := by
  cases x with
  | bus x => exact transact_hideLocked hb x
  | wait =>
    have hb' : s.hideLocked.busy = true := hb
    rw [State.perform, State.poll, if_pos hb', State.perform, State.poll, if_pos hb]
    rfl
  | reset => rfl

theorem step_hideLocked (hs : s.seqTurn = false) : step s.hideLocked = viewed State.hideLocked (step s) := by
  have hs' : s.hideLocked.seqTurn = false := hs
  cases hx : s.inbox with
  | nil => rw [step_waiting hs hx, step_waiting (s := s.hideLocked) hs' hx]; rfl
  | cons x rest =>
    rw [step_input hs hx, step_input (s := s.hideLocked) hs' hx]
    exact perform_hideLocked (s := s.takeInput rest) hb x

end

/-- Settles O58: what is seen of each of the two steps is the step of its wiped state, and that state is the same. -/
theorem busyHostLearnsNothing : Obligations.BusyHostLearnsNothing := by
  intro s t hst hb hs
  have htb : t.busy = true := (congrArg State.busy hst).symm.trans hb
  have hts : t.seqTurn = false := (congrArg State.seqTurn hst).symm.trans hs
  rw [sameView_iff, ← step_hideLocked hb hs, ← step_hideLocked htb hts, hst]

/-! The schedule runs by itself: what a step makes of it is a function of it alone (R331; logs 3 and 17). -/

/-- The part of a state that decides who moves next and when commands complete (log 3), with the parameters, which decide
what offset CMD has. -/
structure Schedule where
  busy : Bool
  delay : Nat
  lats : List Nat
  inbox : List HostInput
  cfg : Config

def State.schedule (s : State) : Schedule :=
  { busy := s.busy, delay := s.delay, lats := s.lats, inbox := s.inbox, cfg := s.cfg }

/-- With no command in progress any more: after a completion (60_exceptions.md R282) or reset (R320). -/
def Schedule.stopped (c : Schedule) : Schedule := { c with busy := false, delay := 0 }

/-- After an issue (60_exceptions.md R280). -/
def Schedule.issued (c : Schedule) : Schedule := { c with busy := true, delay := c.lats.headD 0, lats := c.lats.tail }

/-- After one input from outside that does not fault. -/
def Schedule.after (c : Schedule) : HostInput → Schedule
  | .bus (.read _ _) => c
  | .bus (.write off _ _) => if c.busy = false ∧ locOf c.cfg off.toNat = .cmd then c.issued else c
  | .wait => if c.busy then { c with inbox := .wait :: c.inbox } else c
  | .reset => c.stopped

/-- After one step that does not fault. -/
def Schedule.next (c : Schedule) : Schedule :=
  if c.busy && (c.delay == 0 || c.inbox.isEmpty) then c.stopped
  else
    match c.inbox with
    | [] => c
    | x :: rest => { c with inbox := rest, delay := c.delay - 1 }.after x

/-- Only a write of CMD reaches the schedule. -/
theorem schedule_writeLoc (s : State) (l : Loc) (v : Word) :
    (s.writeLoc l v).schedule = if l = .cmd then s.schedule.issued else s.schedule := by
  cases l with
  | id | ctrl | status | cmd | aPtr | aLen | tPtr | tLen | key | nonce | counter | tag | tagx | ks | dmem | reserved => rfl

theorem schedule_hostRead {s t : State} {off : Word} (h : s.hostRead off = .next t) : t.schedule = s.schedule := by
  obtain ⟨-, rfl⟩ | ⟨-, v, -, rfl⟩ := hostRead_next h
  · rfl
  · rfl

/-- A write that finds CMD unlocked issues a command; any other leaves the schedule as it is (R326, R328). -/
theorem schedule_hostWrite {s t : State} {off v : Word} (h : s.hostWrite off v = .next t) (size : Nat) :
    t.schedule = s.schedule.after (.bus (.write off size v)) := by
  have hafter : s.schedule.after (.bus (.write off size v)) =
      if s.busy = false ∧ locOf s.cfg off.toNat = .cmd then s.schedule.issued else s.schedule := rfl
  rw [hafter]
  obtain ⟨hk, rfl⟩ | ⟨hu, rfl⟩ := hostWrite_next h
  · have hbusy : s.busy = true := (Bool.and_eq_true_iff.mp hk).1
    rw [if_neg (by simp [hbusy])]
    rfl
  · rw [schedule_writeLoc]
    by_cases hl : locOf s.cfg off.toNat = .cmd
    · have hidle : s.busy = false := by simpa [State.isLocked, hl, Loc.locked] using hu
      rw [if_pos hl, if_pos ⟨hidle, hl⟩]
    · rw [if_neg hl, if_neg (fun h => hl h.2)]

theorem schedule_perform {s t : State} {x : HostInput} (h : s.perform x = .next t) :
    t.schedule = s.schedule.after x := by
  obtain ⟨off, rfl, -, hr⟩ | ⟨off, v, rfl, -, hw⟩ | ⟨rfl, rfl⟩ | ⟨rfl, rfl⟩ := perform_next h
  · exact schedule_hostRead hr
  · exact schedule_hostWrite hw 32
  · exact apply_ite State.schedule _ _ _
  · rfl

/-- A step on SEQ's turn: whatever the command, it completes (60_exceptions.md R282). -/
theorem schedule_seqTurn {s t : State} (hs : s.seqTurn = true) (h : step s = .next t) :
    t.schedule = s.schedule.stopped := by
  obtain ⟨hbusy, -, -, hdelay⟩ := step_completes hs h
  have hkept : t.lats = s.lats ∧ t.inbox = s.inbox ∧ t.cfg = s.cfg := by
    obtain ⟨-, i, -, hi⟩ | ⟨-, -, rfl⟩ | ⟨hh, -⟩ | ⟨hh, -⟩ := step_next h
    · obtain ⟨-, -, hcfg, hinbox, hlats, -⟩ := (exec_next hi).keeps_outside
      exact ⟨hlats, hinbox, hcfg⟩
    · exact ⟨rfl, rfl, rfl⟩
    · simp [hs] at hh
    · simp [hs] at hh
  obtain ⟨hlats, hinbox, hcfg⟩ := hkept
  rw [State.schedule, hbusy, hdelay, hlats, hinbox, hcfg]
  rfl

/-- The schedule after a step is a function of the schedule before it. -/
theorem schedule_step {s t : State} (h : step s = .next t) : t.schedule = s.schedule.next := by
  have hturn : (s.schedule.busy && (s.schedule.delay == 0 || s.schedule.inbox.isEmpty)) = s.seqTurn := rfl
  rw [Schedule.next, hturn]
  cases hs : s.seqTurn with
  | true => exact schedule_seqTurn hs h
  | false =>
    have hinbox : s.schedule.inbox = s.inbox := rfl
    rw [if_neg Bool.false_ne_true, hinbox]
    cases hx : s.inbox with
    | nil =>
      rw [step_waiting hs hx] at h
      obtain rfl := Host.Outcome.next.inj h
      rfl
    | cons x rest => exact schedule_perform ((step_input hs hx).symm.trans h)

/-- Settles O59: equal schedules have the same `Schedule.next`. -/
theorem scheduleIgnoresData : Obligations.ScheduleIgnoresData := by
  intro s t s' t' hbusy hdelay hlats hinbox hcfg hs ht
  have hsame : s.schedule = t.schedule := by
    rw [State.schedule, hbusy, hdelay, hlats, hinbox, hcfg]
    rfl
  have hnext : s'.schedule = t'.schedule := by rw [schedule_step hs, schedule_step ht, hsame]
  exact ⟨congrArg Schedule.busy hnext, congrArg Schedule.delay hnext, congrArg Schedule.lats hnext,
    congrArg Schedule.inbox hnext, congrArg Schedule.cfg hnext⟩

/-! Reset (R320 to R323, R333). -/

@[simp] theorem resetWith_ctrlWord (c : Config) : (State.resetWith c).ctrlWord = 0#32 := ctrlWord_eq _

@[simp] theorem resetWith_statusWord (c : Config) : (State.resetWith c).statusWord = 0#32 := by
  rw [State.statusWord, resetWith_err, resetWith_haz, resetWith_mac, resetWith_eq, resetWith_done, resetWith_busy]
  decide

@[simp] theorem resetWith_irq (c : Config) : (State.resetWith c).irq = false := rfl

/-- Settles O53: field by field, the laws of `State.resetWith`; words and bytes of a run by `Vector.getElem_replicate`. -/
theorem resetValues : Obligations.ResetValues := by
  rintro c s rfl
  have hacc : (modP 0).val = 0 := rfl
  simp [hacc]

/-- Settles O54: the input `reset` is performed on the HOST's turn of any state, and its effect is `State.resetNow`. -/
theorem resetInputResetsEverything : Obligations.ResetInputResetsEverything :=
  fun s rest hs hx => ⟨(s.takeInput rest).resetNow, step_input hs hx, rfl, rfl⟩

/-- After reset DMEM is empty, no command is in progress and every secret is zero (R321 to R323). -/
theorem coreInv_resetWith {c : Config} (hc : c.WF) : CoreInv (State.resetWith c) := by
  rw [coreInv_iff]
  exact ⟨hc, ⟨List.Pairwise.nil, fun _ hx => absurd hx List.not_mem_nil⟩,
    ⟨fun hb => Bool.noConfusion hb, fun _ => ⟨rfl, rfl⟩⟩, ⟨rfl, rfl⟩, macInv_zeroized .idle⟩

/-- Settles O55: any well-formed parameters by `coreInv_resetWith`, and the defaults are well-formed. -/
theorem invariantHoldsAtReset : Obligations.InvariantHoldsAtReset :=
  ⟨fun _ hc => coreInv_resetWith hc, coreInv_resetWith (by decide)⟩

end Sys2Proof.Machine
